-- ==== Sys2Proof/Word.lean ====
section
/-! DEFINITION. The words of the hardware (00_scope.md R7) and the fixed files made of them
(10_state.md R36: "state/key/block are always exactly 8 words"). -/

namespace Sys2Proof

/-- A byte: 8 bits, unsigned (R7). -/
abbrev Byte := BitVec 8

/-- A word: 64 bits, unsigned, bit 63 the most significant (R7). -/
abbrev Word := BitVec 64

/-- A file of eight 64-bit registers (R20, R27). -/
abbrev Words := Vector Word 8

/-- A 64-byte block in message order, byte 0 first (R26, R41). -/
abbrev Block := Vector Byte 64

/-- 256 entries, entry `b` in row `b[7:4]`, column `b[3:0]` (the layout of the table of R88). -/
abbrev Grid (α : Type) := Vector (Vector α 16) 16

/-- One lookup table: 256 64-bit entries (R80). -/
abbrev Table := Grid Word

end Sys2Proof
end

