-- ==== Sys2Proof/Config.lean ====
section
/-! DEFINITION. What is fixed for the hardware (00_scope.md R6), the shape of its three named
parameters `TABLE`, `RC`, `GATHER`, and the free values: what the spec leaves open and nothing constrains.
The open parameters `PORT_PROTOCOL`, `BUSY_POLICY` and `LATENCY` of R6 have no name here: no rule depends on
them and a transaction-level model cannot reach them (log entries 9 and 11). -/

namespace Sys2Proof.Config

/-- `ROUNDS`: "rounds are always exactly 10" (R6, R36). -/
def rounds : Nat := 10

/-- `BLOCK_BYTES` (R6). -/
def blockBytes : Nat := 64

/-- `DIGEST_BYTES`, the native digest size (R6). -/
def digestBytes : Nat := 64

/-- The bits of one block, what `ABSORB` adds to the length counter (R126). -/
def blockBits : BitVec 128 := 512

/-- `PAD_MARKER` (R6, R152). -/
def padMarker : Byte := 0x80

/-- The three files of working registers, as indexes of the free values. -/
inductive WorkFile where
  | B | K | S
  deriving DecidableEq, Repr

/-- FREE VALUE. Word `i` of a working register file at draw `n`: "unspecified and cannot be observed" between
commands (R27, U1; log entry 5). -/
opaque freeWord : Nat → WorkFile → Fin 8 → Word

/-- FREE VALUE. The round index at draw `n` (R27, U1; log entry 5). -/
opaque freeRound : Nat → Fin 11

end Sys2Proof.Config

namespace Sys2Proof

/-- One position of the byte gather: a source word and a lane of it (R101). -/
structure GatherPos where
  word : Fin 8
  lane : Fin 8
  deriving DecidableEq, Repr

/-- The eight positions of one output word: the four whose lookups are half-swapped and the four whose lookups
are not, each in the order of tables 0, 1, 2, 3 (R101, R103). -/
structure GatherRow where
  first : Vector GatherPos 4
  second : Vector GatherPos 4
  deriving DecidableEq, Repr

/-- The parameters `TABLE`, `RC` and `GATHER` (R6, R85; log entry 6): a claim about every `Params` is a claim about
the structure of the block, a claim about instantiation W is one about the hardware's own values. -/
structure Params where
  /-- `T[0..3]` (R80). -/
  T : Vector Table 4
  /-- `RC[0..10]` (R83). -/
  RC : Vector Word 11
  /-- The byte-gather permutation, one row an output word (R101). -/
  GATHER : Vector GatherRow 8
  deriving DecidableEq, Repr

end Sys2Proof
end

