-- ==== Sys2Proof/Syntax.lean ====
section
/-! DEFINITION. The commands of the block, one constructor a row of the opcode table (30_encoding.md R72). -/

namespace Sys2Proof

/-- A command with its operands: the fields of the command word and the payload that follows it (R60, R140).
The payload is a plain byte sequence, byte 0 first; `Instr.wf` says which lengths the command word announces. -/
inductive Instr where
  /-- `INIT` (R150). -/
  | init
  /-- `ABSORB m` (R125): `m` is one whole message block. -/
  | absorb (m : List Byte)
  /-- `FINAL L, N, tail` (R140): `L` tail bytes, `N` output bytes requested. -/
  | final (L : BitVec 6) (N : BitVec 8) (tail : List Byte)
  deriving DecidableEq, Repr

end Sys2Proof
end

