-- ==== Sys2Proof/Decode.lean ====
section
/-! DEFINITION. The command word, its decoder and its encoder (30_encoding.md R61 to R69, R72). -/

namespace Sys2Proof

/-- `op` = bits 15:14 of the command word (R61). -/
def opField (w : BitVec 16) : BitVec 2 := w.extractLsb' 14 2

/-- `L` = bits 13:8, the tail length, unsigned and unscaled (R61, R63). -/
def lField (w : BitVec 16) : BitVec 6 := w.extractLsb' 8 6

/-- `N` = bits 7:0, the requested output length, unsigned and unscaled (R61, R64). -/
def nField (w : BitVec 16) : BitVec 8 := w.extractLsb' 0 8

/-- How many payload bytes follow a command word: a function of the word alone, for words that will be rejected
too (R65). -/
def payloadBytes (w : BitVec 16) : Nat :=
  if opField w = 0b01 then Config.blockBytes else if opField w = 0b10 then (lField w).toNat else 0

/-- A row of the opcode map: it holds the words with `w & mask = bits` (R72). -/
structure OpcodeRow where
  bits : BitVec 16
  mask : BitVec 16
  deriving DecidableEq, Repr

def OpcodeRow.holds (row : OpcodeRow) (w : BitVec 16) : Bool := w &&& row.mask == row.bits

/-- The row `INIT` of R72. -/
def initRow : OpcodeRow := ⟨0x0000, 0xFFFF⟩

/-- The row `ABSORB` of R72. -/
def absorbRow : OpcodeRow := ⟨0x4000, 0xFFFF⟩

/-- The row `FINAL` of R72. -/
def finalRow : OpcodeRow := ⟨0x8000, 0xC000⟩

/-- What the decoder reads from a command word and its payload. -/
inductive Decoded where
  /-- The command. -/
  | instr (i : Instr)
  /-- No row of the opcode map holds the word (R67). -/
  | reserved
  /-- The payload is not of the length the word announces (U8). -/
  | payloadLength
  deriving DecidableEq, Repr

/-- The decoder, total on every word and every payload. -/
def decode (w : BitVec 16) (din : List Byte) : Decoded :=
  if din.length ≠ payloadBytes w then .payloadLength
  else if initRow.holds w then .instr .init
  else if absorbRow.holds w then .instr (.absorb din)
  else if finalRow.holds w then .instr (.final (lField w) (nField w) din)
  else .reserved

/-- The command word of a command (R61, R62, R74). -/
def encodeWord : Instr → BitVec 16
  | .init => 0x0000
  | .absorb _ => 0x4000
  | .final L N _ => (0b10 : BitVec 2) ++ L ++ N

/-- The payload of a command, byte 0 first (R65). -/
def encodePayload : Instr → List Byte
  | .init => []
  | .absorb m => m
  | .final _ _ tail => tail

/-- The encoder: what the host puts on the command port, the pair (`CMD`, `DIN`) (R60). -/
def encode (i : Instr) : BitVec 16 × List Byte := (encodeWord i, encodePayload i)

/-- `n` payload bytes taken from the bits of `w`, the first from bits 7:0. -/
def payloadOfNat : Nat → Nat → List Byte
  | 0, _ => []
  | n + 1, w => BitVec.ofNat 8 w :: payloadOfNat n (w / 256)

/-- The transaction whose bits are `w`, numbered as the opcode table numbers them: bits 15:0 are the command word;
where `nbits` is more, payload byte `n` is bits `23+8n : 16+8n` (log entry 10); every bit from `nbits` up is 0. -/
def transactionOfNat (nbits w : Nat) : BitVec 16 × List Byte :=
  let bits := w % 2 ^ nbits
  let cmd := BitVec.ofNat 16 bits
  (cmd, payloadOfNat (payloadBytes cmd) (bits / 2 ^ 16))

/-- The command the decoder reads from a table word (the host's question). -/
def decodeTableWord (nbits w : Nat) : Option Instr :=
  match decode (transactionOfNat nbits w).1 (transactionOfNat nbits w).2 with
  | .instr i => some i
  | .reserved => none
  | .payloadLength => none

end Sys2Proof
end

