-- ==== Sys2Proof/Machine/Bits.lean ====
section
/-! DEFINITION. Byte lanes, rotations and packing (00_scope.md R8 to R13). -/

namespace Sys2Proof.Machine

/-- `byte(w, j)` = `w[63-8j : 56-8j]`: lane 0 is the most significant byte (R8). -/
def byte (w : Word) (j : Fin 8) : Byte := w.extractLsb' (56 - 8 * j.val) 8

/-- `ROTR64(w, n)`, the right rotation (R10). -/
def rotr64 (w : Word) (n : Nat) : Word := w.rotateRight n

/-- `SWAP32(w)`: the two 32-bit halves exchanged (R11). -/
def swap32 (w : Word) : Word := rotr64 w 32

/-- `BE64(b 0, ..., b 7)`: `b 0` in lane 0 (R12). -/
def be64 (b : Fin 8 → Byte) : Word :=
  b 0 ++ b 1 ++ b 2 ++ b 3 ++ b 4 ++ b 5 ++ b 6 ++ b 7

/-- `UNBE64(w)`: the eight lanes, lane 0 first (R12). -/
def unbe64 (w : Word) : List Byte :=
  [byte w 0, byte w 1, byte w 2, byte w 3, byte w 4, byte w 5, byte w 6, byte w 7]

/-- The high 64-bit half of a 128-bit value (R24). -/
def hi64 (v : BitVec 128) : Word := v.extractLsb' 64 64

/-- The low 64-bit half of a 128-bit value (R24). -/
def lo64 (v : BitVec 128) : Word := v.extractLsb' 0 64

/-- `BE128(v)`: 16 bytes, the first `v[127:120]`, the last `v[7:0]` (R12, R43). -/
def be128 (v : BitVec 128) : List Byte := unbe64 (hi64 v) ++ unbe64 (lo64 v)

/-- Every entry of a vector put through `f`, by recursion on its list (so that the kernel evaluates it). -/
def mapVec {α β : Type} {n : Nat} (f : α → β) (v : Vector α n) : Vector β n :=
  ⟨⟨v.toList.map f⟩, by simp⟩

/-- Entry `b` of 256: row `b[7:4]`, column `b[3:0]`. -/
def entry {α : Type} (g : Grid α) (b : Byte) : α :=
  (g.get (b.extractLsb' 4 4).toFin).get (b.extractLsb' 0 4).toFin

/-- Every entry of a grid put through `f`. -/
def mapGrid {α β : Type} (f : α → β) (g : Grid α) : Grid β := mapVec (mapVec f) g

/-- Exclusive-or of two files, word by word (R9). -/
def xorWords (a b : Words) : Words := Vector.ofFn fun i => a[i] ^^^ b[i]

/-- Eight zero words. -/
def zeroWords : Words := Vector.replicate 8 0

/-- Sixty-four zero bytes. -/
def zeroBlock : Block := Vector.replicate 64 0

/-- `WORDS(m)[i] = BE64(m[8i], ..., m[8i+7])` (20_memory.md R41). -/
def words (m : Block) : Words :=
  Vector.ofFn fun i => be64 fun j => m[8 * i.val + j.val]

/-- `BYTES(H)`: byte `n` is `byte(H[n div 8], n mod 8)` (20_memory.md R42). -/
def bytes (H : Words) : Block :=
  Vector.ofFn fun n => byte (H[n.val / 8]) ⟨n.val % 8, by omega⟩

/-- The block whose byte `n` is byte `n` of a list (zero where the list has ended). -/
def blockOf (l : List Byte) : Block := Vector.ofFn fun n => l.getD n.val 0

/-- The first `n` pieces of 64 bytes of a list, in order. -/
def chunks : Nat → List Byte → List (List Byte)
  | 0, _ => []
  | n + 1, l => l.take 64 :: chunks n (l.drop 64)

/-- The whole 64-byte blocks of a list, in order. -/
def blocks (l : List Byte) : List Block := (chunks (l.length / 64) l).map blockOf

end Sys2Proof.Machine
end

