-- ==== Sys2Proof/Machine/State.lean ====
section
/-! DEFINITION. Everything the spec gives the machine (10_state.md), the two ports to the host
(30_encoding.md R60), and the machine right after reset (70_reset_and_hazards.md R190). -/

namespace Sys2Proof.Machine

/-- The block has no fault: nothing stops it (R174: "Nothing else can fail"; R204: "The block never halts").
`InvalidOutputSize` and `ILLEGAL_CMD` are responses, and the step that gives one is a next state. -/
inductive Fault where
  deriving DecidableEq, Repr

/-- Why a step has no meaning. -/
inductive Refusal where
  /-- Raised by an arm of `exec` whose instruction has no meaning yet; safe. No arm is left so. -/
  | notModelled (mnemonic : String)
  /-- Raised by the step, and by the meanings of `ABSORB` and `FINAL`, for a payload that is not of the length the
  command word announces: U8 leaves it out of the transaction level ("`refuse`"); safe (log entry 1). -/
  | payloadLength
  deriving DecidableEq, Repr

/-- `STATUS` of a response (R66); its fourth code is never produced. -/
inductive Status where
  | ok
  | invalidOutputSize
  | illegalCmd
  deriving DecidableEq, Repr

/-- A response: the triple (`STATUS`, `DLEN`, `DOUT`) (R60). -/
structure Response where
  status : Status
  dlen : Nat
  dout : List Byte
  deriving DecidableEq, Repr

/-- What the host side presents to the block: a command, the pair (`CMD`, `DIN`) (R60), or a hardware reset, asserted
between commands or while a command executes (R191; log entry 8). -/
inductive PortEvent where
  | command (cmd : BitVec 16) (din : List Byte)
  | hardwareReset (during : Option (BitVec 16 × List Byte))
  deriving DecidableEq, Repr

/-- The working registers of the Block Transform (R27). -/
structure Work where
  /-- The block as words. -/
  B : Words
  /-- The round key. -/
  K : Words
  /-- The cipher state. -/
  S : Words
  /-- The round index, 0 to 10. -/
  RND : Fin 11
  deriving DecidableEq, Repr

/-- The state of the block and of its two ports. -/
structure State where
  /-- `H[0..7]`, the running digest (R20). -/
  H : Words
  /-- `LEN`, the message bits absorbed so far (R24). -/
  LEN : BitVec 128
  /-- `BUF[0..63]`, the staging buffer of `FINAL` (R26). -/
  BUF : Block
  /-- `B`, `K`, `S` and `RND` (R27). -/
  work : Work
  /-- The constant storage `T` and `RC` (R31), and beside it the wired `GATHER` (log entry 6). -/
  par : Params
  /-- What the host side presents next, in order (R50; log entry 2). -/
  cmds : List PortEvent
  /-- The responses given so far, oldest first (R60; log entry 3). -/
  rsps : List Response
  /-- The model's own: how many times free values have been drawn (log entry 5). -/
  draws : Nat
  deriving DecidableEq, Repr

/-- `LEN_HI` = `LEN[127:64]` (R24). -/
def State.LEN_HI (s : State) : Word := hi64 s.LEN

/-- `LEN_LO` = `LEN[63:0]` (R24). -/
def State.LEN_LO (s : State) : Word := lo64 s.LEN

/-- The machine right after reset (R190). DESIGN CHOICE: `B`, `K`, `S`, `RND`, which the spec leaves unspecified, are
zero (log entry 4), the command port presents nothing (log entry 2), no free value is drawn yet (log entry 5). -/
def State.reset : State where
  H := zeroWords
  LEN := 0
  BUF := zeroBlock
  work := ⟨zeroWords, zeroWords, zeroWords, 0⟩
  par := paramsW
  cmds := []
  rsps := []
  draws := 0

end Sys2Proof.Machine
end

