-- ==== Sys2Proof/Machine/Flags.lean ====
section
/-! DEFINITION. The block has no flags (10_state.md R29); the one condition a command reports is the `STATUS` of
its response, and the one test that decides it is the size check of `FINAL`. -/

namespace Sys2Proof.Machine

/-- The 2-bit code of a status (30_encoding.md R66). -/
def Status.code : Status → BitVec 2
  | .ok => 0b00
  | .invalidOutputSize => 0b01
  | .illegalCmd => 0b10

/-- `N = 0` or `N > 64`: the requests that raise `InvalidOutputSize` (44_padding_finalizer.md R141). -/
def badOutputSize (N : BitVec 8) : Bool := N.toNat == 0 || decide (Config.digestBytes < N.toNat)

end Sys2Proof.Machine
end

