-- ==== Sys2Proof/Machine/Ops.lean ====
section
/-! DEFINITION. The internal operations of the block (`LOOKUP`, `RPASS`, `KSTEP`, `XFORM`), the operations over its
registers and ports, and the error response, which is all that taking an exception is here (60_exceptions.md R178). -/

namespace Sys2Proof.Machine

/-- `LOOKUP k, b`: the entry `T[k][b]` (40_constant_tables.md R86). -/
def lookup (p : Params) (k : Fin 4) (b : Byte) : Word := entry (p.T.get k) b

/-- The byte of a source file at a position of the gather. -/
def gathered (src : Words) (at_ : GatherPos) : Byte := byte src[at_.word] at_.lane

/-- Four gathered bytes looked up in tables 0, 1, 2, 3 and combined (41_round_pass.md R103). -/
def lookupGroup (p : Params) (src : Words) (g : Vector GatherPos 4) : Word :=
  lookup p 0 (gathered src g[0]) ^^^ lookup p 1 (gathered src g[1])
    ^^^ lookup p 2 (gathered src g[2]) ^^^ lookup p 3 (gathered src g[3])

/-- `RPASS(src, extra)`: output word `i` is the half-swapped first group, the second group and `extra[i]`
(R100, R103, R104). -/
def rpass (p : Params) (src extra : Words) : Words :=
  Vector.ofFn fun i =>
    swap32 (lookupGroup p src (p.GATHER.get i).first) ^^^ lookupGroup p src (p.GATHER.get i).second ^^^ extra[i]

/-- `KSTEP(K, r) = RPASS(K, (RC[r], 0, 0, 0, 0, 0, 0, 0))` (42_round_key_schedule.md R111). -/
def kstep (p : Params) (K : Words) (r : Fin 11) : Words := rpass p K #v[p.RC.get r, 0, 0, 0, 0, 0, 0, 0]

/-- The start of a Block Transform: `K^0 = H`, `S^0 = B ^ K^0` (43_block_transform.md R120). -/
def Work.load (H B : Words) : Work := ⟨B, H, xorWords B H, 0⟩

/-- One round: the round index steps, the key first, then the state with the new key (R121, R122). -/
def Work.round (p : Params) (w : Work) : Work :=
  let K := kstep p w.K (w.RND + 1)
  { w with K := K, S := rpass p w.S K, RND := w.RND + 1 }

/-- `n` rounds. -/
def Work.run (p : Params) : Nat → Work → Work
  | 0, w => w
  | n + 1, w => Work.run p n (w.round p)

/-- The feed-forward, `S^10 ^ B ^ H` (R123). -/
def Work.feedForward (w : Work) (H : Words) : Words := xorWords (xorWords w.S w.B) H

/-- `XFORM(H, B)` (R120 to R123). -/
def xform (p : Params) (H B : Words) : Words := ((Work.load H B).run p Config.rounds).feedForward H

/-- A Block Transform on the state: the working registers go through it and `H` takes its result (R22, R124). -/
def State.transform (B : Words) (s : State) : State :=
  let w := (Work.load s.H B).run s.par Config.rounds
  { s with H := w.feedForward s.H, work := w }

/-- `BUF <- P_n; H <- XFORM(H, WORDS(BUF))` (44_padding_finalizer.md R140). -/
def State.stage (s : State) (P : Block) : State := ({ s with BUF := P } : State).transform (words P)

/-- The same for each block, in order (R146). -/
def State.stageAll : State → List Block → State
  | s, [] => s
  | s, P :: Ps => (s.stage P).stageAll Ps

/-- `LEN <- (LEN + 512) mod 2^128` (R126). -/
def State.countBlock (s : State) : State := { s with LEN := s.LEN + Config.blockBits }

/-- Free values for the working registers (log entry 5). -/
def freeWork (n : Nat) : Work where
  B := Vector.ofFn (Config.freeWord n .B)
  K := Vector.ofFn (Config.freeWord n .K)
  S := Vector.ofFn (Config.freeWord n .S)
  RND := Config.freeRound n

/-- The working registers hold no specified value once a Block Transform is over (R27, U1; log entry 5). -/
def State.releaseWork (s : State) : State := { s with work := freeWork s.draws, draws := s.draws + 1 }

/-- `H <- 0; LEN <- 0; BUF <- 0` (R149, R150, R190). -/
def State.clear (s : State) : State := { s with H := zeroWords, LEN := 0, BUF := zeroBlock }

/-- The response to the command, given to the host (R60). -/
def State.respond (s : State) (r : Response) : State := { s with rsps := s.rsps ++ [r] }

/-- `respond OK(bytes)` (00_scope.md R17). -/
def okResponse (out : List Byte) : Response := ⟨.ok, out.length, out⟩

/-- The error response: the status and no output byte (R66, R172). -/
def errorResponse (e : Status) : Response := ⟨e, 0, []⟩

/-- Taking an exception: the error response and nothing more; no state is saved, no mode changes, control goes
nowhere (R173, R175, R178). There is no return from one: the next command is accepted as after any other (R179). -/
def State.raise (s : State) (e : Status) : State := s.respond (errorResponse e)

/-- The answer to a reserved command word; its payload is discarded (30_encoding.md R67). -/
def State.illegal (s : State) : State := s.raise .illegalCmd

/-- Hardware reset, whatever was executing: the fresh state, the working registers unspecified, no response
(70_reset_and_hazards.md R190, R191; log entry 8). -/
def State.hardwareReset (s : State) : State := s.clear.releaseWork

/-- No command on the port: the block is idle "with `H` and `LEN` held" (60_exceptions.md R186). -/
def State.idle (s : State) : State := s

/-- The event the host side presents next, and the state that has taken it. -/
def State.takeEvent (s : State) : Option (PortEvent × State) :=
  match s.cmds with
  | [] => none
  | e :: rest => some (e, { s with cmds := rest })

end Sys2Proof.Machine
end

