-- ==== Sys2Proof/Machine/BlockTransform.lean ====
section
/-! DEFINITION. The command of the Block Transform family, `ABSORB` (43_block_transform.md section 2). -/

namespace Sys2Proof.Machine

/-- `ABSORB m`: `B <- WORDS(m); H <- XFORM(H, B); LEN <- LEN + 512; respond OK()` (R125). -/
def execAbsorb (m : List Byte) (s : State) : Host.Outcome State Fault Refusal :=
  if m.length = Config.blockBytes then
    .next (((s.transform (words (blockOf m))).countBlock.releaseWork).respond (okResponse []))
  else .refused .payloadLength

end Sys2Proof.Machine
end

