-- ==== Sys2Proof/Machine/Operands.lean ====
section
/-! DEFINITION. The operands of the commands as the meanings use them: the total bit length and the padded tail
(30_encoding.md R71, 44_padding_finalizer.md section 2). -/

namespace Sys2Proof.Machine

/-- `tot = (LEN + 8*L) mod 2^128` (R142). -/
def totalBits (LEN : BitVec 128) (L : BitVec 6) : BitVec 128 := LEN + 8 * L.zeroExtend 128

/-- `z = (31 - L) mod 64`, the zero bytes between the marker and the reserved 32 (R143). -/
def padZeros (L : Nat) : Nat := (95 - L % 64) % 64

/-- `PAD(tail, tot)`: the tail, the marker, the zero fill, 16 zero bytes, the 128-bit big-endian length (R143). -/
def pad (tail : List Byte) (tot : BitVec 128) : List Byte :=
  tail ++ [Config.padMarker] ++ List.replicate (padZeros tail.length) 0 ++ List.replicate 16 0 ++ be128 tot

/-- The one or two blocks of the padded tail, in order (R144). -/
def padBlocks (tail : List Byte) (tot : BitVec 128) : List Block := blocks (pad tail tot)

end Sys2Proof.Machine
end

