-- ==== Sys2Proof/Machine/Finalizer.lean ====
section
/-! DEFINITION. The commands of the Padding/Finalizer family, `FINAL` and `INIT` (44_padding_finalizer.md). -/

namespace Sys2Proof.Machine

/-- The state in which `FINAL` forms its output: every padding block transformed, nothing cleared yet (R142 to R146). -/
def finalDigest (L : BitVec 6) (tail : List Byte) (s : State) : State :=
  s.stageAll (padBlocks tail (totalBits s.LEN L))

/-- `out = BYTES(H)[0 .. N-1]` (R147, R148). -/
def outputBytes (H : Words) (N : BitVec 8) : List Byte := (bytes H).toList.take N.toNat

/-- `FINAL L, N, tail`: the size check first (R141), then padding, transforms, output, clear, response (R140, R155). -/
def execFinal (L : BitVec 6) (N : BitVec 8) (tail : List Byte) (s : State) : Host.Outcome State Fault Refusal :=
  if tail.length = L.toNat then
    if badOutputSize N then .next (s.raise .invalidOutputSize)
    else
      let t := finalDigest L tail s
      .next (t.clear.releaseWork.respond (okResponse (outputBytes t.H N)))
  else .refused .payloadLength

/-- `INIT`: `H <- 0; LEN <- 0; BUF <- 0; respond OK()` (R150). -/
def execInit (s : State) : Host.Outcome State Fault Refusal := .next (s.clear.respond (okResponse []))

end Sys2Proof.Machine
end

