-- ==== Sys2Proof/Machine/Dispatch.lean ====
section
/-! DEFINITION. One arm a constructor of `Instr`. -/

namespace Sys2Proof.Machine

def exec (i : Instr) (s : State) : Host.Outcome State Fault Refusal :=
  match i with
  | .init => Sys2Proof.Machine.execInit s
  | .absorb m => Sys2Proof.Machine.execAbsorb m s
  | .final L N tail => Sys2Proof.Machine.execFinal L N tail s

end Sys2Proof.Machine
end

