-- ==== Sys2Proof/Machine/Step.lean ====
section
/-! DEFINITION. One step: the block takes the event the host side presents next and completes it
(20_memory.md R50, 70_reset_and_hazards.md R203; log entry 7). -/

namespace Sys2Proof.Machine

/-- One command, one hardware reset, or an idle step. A command that a reset cuts short is abandoned: it has no effect
and no response (70_reset_and_hazards.md R191; log entry 8). -/
def step (s : State) : Host.Outcome State Fault Refusal :=
  match s.takeEvent with
  | none => .next s.idle
  | some (.hardwareReset _, t) => .next t.hardwareReset
  | some (.command cmd din, t) =>
    match decode cmd din with
    | .instr i => exec i t
    | .reserved => .next t.illegal
    | .payloadLength => .refused .payloadLength

/-- The transaction of a table word presented before everything else the host side presents (log entry 10). -/
def State.withFetchWord (s : State) (nbits w : Nat) : State :=
  { s with cmds := .command (transactionOfNat nbits w).1 (transactionOfNat nbits w).2 :: s.cmds }

end Sys2Proof.Machine
end

