-- ==== Sys2Proof/Machine/Message.lean ====
section
/-! DEFINITION. The pseudo-commands and their expansions (30_encoding.md R73), and the function the block computes
for a whole message (44_padding_finalizer.md R157). -/

namespace Sys2Proof.Machine

/-- The bytes of a message after its whole 64-byte blocks (R73). -/
def messageTail (M : List Byte) : List Byte := M.drop (64 * (M.length / 64))

/-- `RESTART` is `INIT` (R73). -/
def restartExpansion : List Instr := [.init]

/-- `HASH N, M`: `INIT`, an `ABSORB` a whole block in order, `FINAL` with the rest (R73). -/
def hashExpansion (N : BitVec 8) (M : List Byte) : List Instr :=
  .init :: ((chunks (M.length / 64) M).map .absorb ++
    [.final (BitVec.ofNat 6 (M.length % 64)) N (messageTail M)])

/-- `DIGEST M` is `HASH 64, M` (R73). -/
def digestExpansion (M : List Byte) : List Instr := hashExpansion 64 M

/-- Commands as the host presents them on the port. -/
def present (is : List Instr) : List PortEvent := is.map fun i => .command (encode i).1 (encode i).2

/-- The digest registers after every block of a list has gone through `XFORM`, in order. -/
def compress (p : Params) (H : Words) (Ps : List Block) : Words :=
  Ps.foldl (fun H P => xform p H (words P)) H

/-- `BYTES(H_last)` for a message `M` (R157). -/
def messageDigest (p : Params) (M : List Byte) : Block :=
  bytes (compress p zeroWords (blocks M ++ padBlocks (messageTail M) (BitVec.ofNat 128 (8 * M.length))))

end Sys2Proof.Machine
end

