-- ==== Sys2Proof/WellFormed.lean ====
section
/-! DEFINITION. Which commands the port can carry: the payload has the length the command word announces
(30_encoding.md R65; 93_implementation_defined.md U8). -/

namespace Sys2Proof

/-- The payload of `ABSORB` is 64 bytes, that of `FINAL` is `L` bytes (R65). -/
def Instr.wf : Instr → Bool
  | .init => true
  | .absorb m => m.length == Config.blockBytes
  | .final L _ tail => tail.length == L.toNat

end Sys2Proof
end

