-- ==== Sys2Proof/Safety.lean ====
section
/-! DEFINITION. What the statements call a fresh instance, a well-formed response, a good state and a run that
goes on. -/

namespace Sys2Proof.Machine

/-- The instance is fresh: `H = 0`, `LEN = 0`, `BUF = 0` (10_state.md R35). -/
structure State.Fresh (s : State) : Prop where
  H : s.H = zeroWords
  LEN : s.LEN = 0
  BUF : s.BUF = zeroBlock

/-- `DLEN` is the number of output bytes, at most 64, and 0 unless the status is OK (30_encoding.md R60, R66). -/
structure Response.Wf (r : Response) : Prop where
  dlen : r.dlen = r.dout.length
  bound : r.dlen ≤ 64
  silent : r.status ≠ .ok → r.dlen = 0

/-- What holds between commands: `LEN` is a multiple of 512 (R25), `BUF` carries nothing (R26), the constant storage
holds its fixed contents (R31, R84), every response given is well-formed. -/
structure State.Inv (s : State) : Prop where
  LEN : 512 ∣ s.LEN.toNat
  BUF : s.BUF = zeroBlock
  par : s.par = paramsW
  rsps : ∀ r ∈ s.rsps, r.Wf

/-- The payload presented with a command has the length its command word announces (R65, U8). -/
def PortEvent.framed : PortEvent → Bool
  | .command cmd din => din.length == payloadBytes cmd
  | .hardwareReset _ => true

/-- Every command the host side presents is framed. -/
def State.framed (s : State) : Bool := s.cmds.all PortEvent.framed

/-- A run of `n` steps goes on to the end: no fault, no refusal. -/
def SafeRun (n : Nat) (s : State) : Prop := ∃ t, Host.Core.run core n s = .next t

/-- Two states agree on what a command can depend on: `H`, `LEN`, the command and the fixed parameters
(20_memory.md R55). -/
structure State.SameInputs (s t : State) : Prop where
  H : s.H = t.H
  LEN : s.LEN = t.LEN
  par : s.par = t.par
  cmds : s.cmds = t.cmds

end Sys2Proof.Machine
end

