-- ==== Sys2Proof/Certificates/Slice0/Obligations.lean ====
section
/-! DEFINITION. The statements for the provers, in the order of the spec's files. -/

open Sys2Proof Sys2Proof.Machine

/-! ## Bits, bytes and words (00_scope.md, 20_memory.md) -/

/-- R8: lane `j` of a word is its bits `63-8j` to `56-8j` (said as arithmetic), and lane `j` of block word `i` is
message byte `8i + j`. -/
def Obligations.ByteLanesAreBitSlices : Prop :=
  (∀ (w : Word) (j : Fin 8), (byte w j).toNat = w.toNat / 2 ^ (56 - 8 * j.val) % 256) ∧
  (∀ (m : Block) (i j : Fin 8), byte (words m)[i] j = m[8 * i.val + j.val])

/-- R10: the formula of the right rotation, the rotation by nothing, and what a rotation by whole bytes does to the
lanes (`j - k` is modulo 8). -/
def Obligations.RotationFormula : Prop :=
  (∀ (w : Word) (n : Nat), n < 64 → rotr64 w n = (w >>> n) ||| (w <<< (64 - n))) ∧
  (∀ w : Word, rotr64 w 0 = w) ∧
  (∀ (w : Word) (k j : Fin 8), byte (rotr64 w (8 * k.val)) j = byte w (j - k))

/-- R11: the half swap is the rotation by 32, exchanges `w[31:0]` and `w[63:32]`, undoes itself and distributes over
exclusive-or. -/
def Obligations.HalfSwapLaws : Prop :=
  (∀ w : Word, swap32 w = rotr64 w 32) ∧
  (∀ w : Word, swap32 w = w.extractLsb' 0 32 ++ w.extractLsb' 32 32) ∧
  (∀ w : Word, swap32 (swap32 w) = w) ∧
  (∀ a b : Word, swap32 (a ^^^ b) = swap32 a ^^^ swap32 b)

/-- R12: `BE64` as a sum of powers of 256, `UNBE64` its inverse in both directions, and the bytes of `BE128` from
`v[127:120]` down to `v[7:0]`. -/
def Obligations.BigEndianPacking : Prop :=
  (∀ b : Fin 8 → Byte, (be64 b).toNat =
    (b 0).toNat * 2 ^ 56 + (b 1).toNat * 2 ^ 48 + (b 2).toNat * 2 ^ 40 + (b 3).toNat * 2 ^ 32
      + (b 4).toNat * 2 ^ 24 + (b 5).toNat * 2 ^ 16 + (b 6).toNat * 2 ^ 8 + (b 7).toNat) ∧
  (∀ b : Fin 8 → Byte, unbe64 (be64 b) = List.ofFn b) ∧
  (∀ w : Word, unbe64 w = List.ofFn (byte w) ∧ be64 (byte w) = w) ∧
  (∀ v : BitVec 128, be128 v = List.ofFn fun n : Fin 16 => v.extractLsb' (120 - 8 * n.val) 8)

/-- R41 and R42: the packing of a block into words, the serialisation of the digest, the two worked examples; and
that each undoes the other. -/
def Obligations.WordsAndBytesAreInverse : Prop :=
  (∀ (m : Block) (i : Fin 8), (words m)[i] = be64 fun j => m[8 * i.val + j.val]) ∧
  (∀ (m : Block) (i j : Fin 8), byte (words m)[i] j = m[8 * i.val + j.val]) ∧
  words (blockOf ([0x61, 0x62, 0x63, 0x80] ++ List.replicate 59 0 ++ [0x18])) =
    #v[0x6162638000000000, 0, 0, 0, 0, 0, 0, 0x0000000000000018] ∧
  (∀ H : Words, (bytes H).toList = H.toList.flatMap unbe64) ∧
  (∀ (H : Words) (n : Fin 64), (bytes H)[n] = byte H[n.val / 8] ⟨n.val % 8, Nat.mod_lt _ (by decide)⟩) ∧
  (∀ H : Words, H[0] = 0x19FA61D75522A466 →
    (bytes H).toList.take 8 = [0x19, 0xFA, 0x61, 0xD7, 0x55, 0x22, 0xA4, 0x66]) ∧
  (∀ m : Block, bytes (words m) = m) ∧ (∀ H : Words, words (bytes H) = H)

/-! ## The command interface (30_encoding.md) -/

/-- Decoding what the encoder wrote gives the command back, every operand at every value: no bit of an encoding and
no byte of a payload is dropped. -/
def Obligations.DecodeOfEncode : Prop :=
  ∀ i : Instr, i.wf = true → decode (encode i).1 (encode i).2 = .instr i

/-- Each transaction has one meaning: what decodes to a command is what the encoder writes for it, and the command is
well-formed. -/
def Obligations.EncodeOfDecode : Prop :=
  ∀ (cmd : BitVec 16) (din : List Byte) (i : Instr), decode cmd din = .instr i → encode i = (cmd, din) ∧ i.wf = true

/-- R72: the rows `INIT`, `ABSORB`, `FINAL` by match and mask, their payloads, that no two hold one word, that a word
no row holds is a reserved encoding, and the counts over the 65536 words. -/
def Obligations.OpcodeMapIsDisjointAndCounted : Prop :=
  (∀ (w : BitVec 16) (din : List Byte), din.length = payloadBytes w →
    (w &&& 0xFFFF = 0x0000 → decode w din = .instr .init ∧ din.length = 0) ∧
    (w &&& 0xFFFF = 0x4000 → decode w din = .instr (.absorb din) ∧ din.length = 64) ∧
    (w &&& 0xC000 = 0x8000 → decode w din = .instr (.final (w.extractLsb' 8 6) (w.extractLsb' 0 8) din) ∧
      din.length = (w.extractLsb' 8 6).toNat) ∧
    (w &&& 0xFFFF ≠ 0x0000 ∧ w &&& 0xFFFF ≠ 0x4000 ∧ w &&& 0xC000 ≠ 0x8000 → decode w din = .reserved)) ∧
  (∀ w : BitVec 16, ¬(w &&& 0xFFFF = 0x0000 ∧ w &&& 0xFFFF = 0x4000) ∧
    ¬(w &&& 0xFFFF = 0x0000 ∧ w &&& 0xC000 = 0x8000) ∧ ¬(w &&& 0xFFFF = 0x4000 ∧ w &&& 0xC000 = 0x8000)) ∧
  (List.range 65536).countP (fun n => initRow.holds (BitVec.ofNat 16 n)) = 1 ∧
  (List.range 65536).countP (fun n => absorbRow.holds (BitVec.ofNat 16 n)) = 1 ∧
  (List.range 65536).countP (fun n => finalRow.holds (BitVec.ofNat 16 n)) = 16384 ∧
  (List.range 65536).countP (fun n => !(initRow.holds (BitVec.ofNat 16 n) || absorbRow.holds (BitVec.ofNat 16 n)
    || finalRow.holds (BitVec.ofNat 16 n))) = 49150

/-- R67 and R175: which words are reserved, and what the block does with one: the status ILLEGAL_CMD (code 10), no
output, the payload (of the length R65 gives) taken and discarded, no other field of the state changed. That the ports
are lists in the state is the model's choice (log entries 2 and 3). -/
def Obligations.ReservedWordsAnswerIllegalCommand : Prop :=
  (∀ (w : BitVec 16) (din : List Byte), decode w din = .reserved ↔
    din.length = (if w.extractLsb' 14 2 = 0b01 then 64 else 0) ∧
    (w.extractLsb' 14 2 = 0b11 ∨
      (w.extractLsb' 14 2 = 0b00 ∨ w.extractLsb' 14 2 = 0b01) ∧ w.extractLsb' 0 14 ≠ 0)) ∧
  (∀ (s : State) (w : BitVec 16) (din : List Byte) (rest : List PortEvent),
    s.cmds = .command w din :: rest → decode w din = .reserved →
      step s = .next { s with cmds := rest, rsps := s.rsps ++ [⟨.illegalCmd, 0, []⟩] }) ∧
  Status.illegalCmd.code = 0b10

/-- R68: every word with `op = 10` is a `FINAL`, for every `L` and every `N`; its response is never ILLEGAL_CMD, and
is INVALID_OUTPUT_SIZE for the bad values of `N`. -/
def Obligations.EveryFinalWordDecodes : Prop :=
  ∀ (L : BitVec 6) (N : BitVec 8) (tail : List Byte), tail.length = L.toNat →
    decode ((0b10 : BitVec 2) ++ L ++ N) tail = .instr (.final L N tail) ∧
    ∀ s : State, ∃ t r, exec (.final L N tail) s = .next t ∧ t.rsps = s.rsps ++ [r] ∧ r.status ≠ .illegalCmd ∧
      (N = 0 ∨ 64 < N.toNat → r.status = .invalidOutputSize)

/-- R74, a few of its words, written bit by bit. -/
def Obligations.WorkedEncodings : Prop :=
  decode 0b0000000000000000 [] = .instr .init ∧
  decode 0b1000000001000000 [] = .instr (.final 0 64 []) ∧
  decode 0b1000001101000000 [0x61, 0x62, 0x63] = .instr (.final 3 64 [0x61, 0x62, 0x63]) ∧
  decode 0b1000000011111111 [] = .instr (.final 0 255 []) ∧
  decode 0b1100000000000000 [] = .reserved ∧
  decode 0b0000000000000001 [] = .reserved ∧
  encode (.absorb []) = (0b0100000000000000, []) ∧
  encodeWord (.final 63 64 []) = 0b1011111101000000

/-- A step runs the decoded command on the state that has taken it from the port; with nothing on the port the block
is idle (log entry 2). -/
def Obligations.StepRunsDecodedCommand : Prop :=
  (∀ (s : State) (cmd : BitVec 16) (din : List Byte) (rest : List PortEvent) (i : Instr),
    s.cmds = .command cmd din :: rest → decode cmd din = .instr i → step s = exec i { s with cmds := rest }) ∧
  (∀ s : State, s.cmds = [] → step s = .next s)

/-- Where the model stops, and nowhere else (log entry 1; U8): a step refuses exactly when the payload presented is
not of the length its command word announces, and never faults. -/
def Obligations.StepRefusesOnlyMisframedPayload : Prop :=
  ∀ s : State, (∀ f, step s ≠ .fault f) ∧
    (∀ r, step s = .refused r ↔ r = .payloadLength ∧
      ∃ cmd din rest, s.cmds = .command cmd din :: rest ∧ din.length ≠ payloadBytes cmd)

/-! ## The constants (40_constant_tables.md) -/

/-- R81 for instantiation W: table `k` is the base table rotated right by `k` bytes, as words and in byte lanes. -/
def Obligations.TablesAreRotationsOfTheBase : Prop :=
  ∀ (k : Fin 4) (b : Byte),
    lookup paramsW k b = rotr64 (lookup paramsW 0 b) (8 * k.val) ∧
    ∀ j : Fin 8, byte (lookup paramsW k b) j = byte (lookup paramsW 0 b) (j - Fin.castLE (by decide) k)

/-- R89, R91 and R92 for instantiation W: `T[0]` and `RC` are what the construction from `SBOX` gives, `SBOX` is the
construction from the mini-boxes (R87) and a permutation. -/
def Obligations.ConstantsFollowFromMiniBoxes : Prop :=
  (∀ u : Byte, entry SBOX u = sboxFromMini u) ∧
  (∀ v : Byte, ∃ u : Byte, entry SBOX u = v) ∧
  (∀ b : Byte, lookup paramsW 0 b = be64 fun j => mul (sboxFromMini b) (diffusionRow.get j)) ∧
  (∀ r : Fin 11, paramsW.RC.get r = rcFromSbox r)

/-! ## The Round Pass (41_round_pass.md) -/

/-- R103 for the hardware's gather and any tables: output word `i`, its byte positions written out (`i - n` is modulo
8), the half swap on the first group only. -/
def Obligations.RoundPassFormula : Prop :=
  ∀ (p : Params) (src extra : Words) (i : Fin 8), p.GATHER = gatherW →
    (rpass p src extra)[i] =
      swap32 (lookup p 0 (byte src[i - 4] 4) ^^^ lookup p 1 (byte src[i - 5] 5)
        ^^^ lookup p 2 (byte src[i - 6] 6) ^^^ lookup p 3 (byte src[i - 7] 7))
      ^^^ (lookup p 0 (byte src[i] 0) ^^^ lookup p 1 (byte src[i - 1] 1)
        ^^^ lookup p 2 (byte src[i - 2] 2) ^^^ lookup p 3 (byte src[i - 3] 3))
      ^^^ extra[i]

/-- R105, for every value of the parameters: the extra term is folded in linearly and takes no part in a lookup. -/
def Obligations.ExtraTermIsLinear : Prop :=
  ∀ (p : Params) (src extra : Words) (i : Fin 8),
    (rpass p src extra)[i] = (rpass p src zeroWords)[i] ^^^ extra[i]

/-- R102: the source byte (word `w`, lane `l`) is used by output word `(w + l) mod 8` and by no other: where two sources
differ in that byte alone, every other output word is the same, and that one differs by the exclusive-or of the two
lookups of the byte in table `l mod 4`, half-swapped for lanes 4 to 7; with W it does differ. -/
def Obligations.SourceByteFeedsOneWord : Prop :=
  ∀ (p : Params) (src src' extra : Words) (w l i : Fin 8), p.GATHER = gatherW →
    (∀ w' l' : Fin 8, (w', l') ≠ (w, l) → byte src[w'] l' = byte src'[w'] l') →
    (i ≠ w + l → (rpass p src extra)[i] = (rpass p src' extra)[i]) ∧
    (i = w + l → (rpass p src extra)[i] ^^^ (rpass p src' extra)[i] =
      (if l.val < 4 then id else swap32)
        (lookup p (Fin.ofNat 4 l.val) (byte src[w] l) ^^^ lookup p (Fin.ofNat 4 l.val) (byte src'[w] l))) ∧
    (i = w + l → p = paramsW → byte src[w] l ≠ byte src'[w] l → (rpass p src extra)[i] ≠ (rpass p src' extra)[i])

/-- R108: with W the four-table datapath computes what eight tables, each a byte rotation of the base, compute. -/
def Obligations.EightTableForm : Prop :=
  ∀ (src extra : Words) (i : Fin 8),
    (rpass paramsW src extra)[i] =
      (List.finRange 8).foldl
        (fun acc j => acc ^^^ rotr64 (lookup paramsW 0 (byte src[i - j] j)) (8 * j.val)) 0 ^^^ extra[i]

/-- R109: with W the table-driven Round Pass is the byte-matrix form: substitute every byte, shift column `j` down by
`j` rows, multiply each row by the circulant matrix of the diffusion row. -/
def Obligations.ByteMatrixForm : Prop :=
  ∀ (src : Words) (i c : Fin 8),
    byte (rpass paramsW src zeroWords)[i] c =
      (List.finRange 8).foldl
        (fun acc j => acc ^^^ mul (entry SBOX (byte src[i - j] j)) (diffusionRow.get (c - j))) 0

/-- 95_test_vectors.md 8.3: rotating the words of both operands rotates the words of the result. -/
def Obligations.RoundPassWordRotation : Prop :=
  ∀ (p : Params) (src extra src' extra' : Words), p.GATHER = gatherW →
    (∀ i : Fin 8, src'[i] = src[i + 1] ∧ extra'[i] = extra[i + 1]) →
    ∀ i : Fin 8, (rpass p src' extra')[i] = (rpass p src extra)[i + 1]

/-! ## The key schedule (42_round_key_schedule.md) -/

/-- R111: the next key is the Round Pass of the current one, `RC[r]` folded into word 0 and into no other. -/
def Obligations.KeyStepFoldsRoundConstantIntoWordZero : Prop :=
  ∀ (p : Params) (K : Words) (r : Fin 11),
    kstep p K r = rpass p K #v[p.RC.get r, 0, 0, 0, 0, 0, 0, 0] ∧
    (kstep p K r)[0] = (rpass p K zeroWords)[0] ^^^ p.RC.get r ∧
    ∀ i : Fin 8, i ≠ 0 → (kstep p K r)[i] = (rpass p K zeroWords)[i]

/-- R113 and R112: within a Block Transform the round keys depend on the digest alone, not on the block, each is the
key step of the one before it with the round constant of its own round, and the round index counts the rounds. -/
def Obligations.RoundKeysIgnoreTheBlock : Prop :=
  ∀ (p : Params) (H B B' : Words) (n : Nat), n < 10 →
    ((Work.load H B).run p n).K = ((Work.load H B').run p n).K ∧
    ((Work.load H B).run p n).RND.val = n ∧
    ∀ r : Fin 11, r.val = n + 1 → ((Work.load H B).run p (n + 1)).K = kstep p ((Work.load H B).run p n).K r

/-! ## The Block Transform and ABSORB (43_block_transform.md) -/

/-- R120, R121 and R123: whatever sequences of keys and states start as R120 says and step as R121 says, ten rounds
of them and the feed-forward are `XFORM`. -/
def Obligations.TransformIsTenRoundsAndFeedForward : Prop :=
  ∀ (p : Params) (H B : Words) (K S : Nat → Words),
    K 0 = H → (∀ i : Fin 8, (S 0)[i] = B[i] ^^^ (K 0)[i]) →
    (∀ r : Fin 11, r ≠ 0 → K r.val = kstep p (K (r.val - 1)) r ∧ S r.val = rpass p (S (r.val - 1)) (K r.val)) →
    ∀ i : Fin 8, (xform p H B)[i] = (S 10)[i] ^^^ B[i] ^^^ H[i]

/-- R128: the in-place form (`H` overwritten with `B ^ H` at the start, the last state folded in at the end) gives
the same digest. -/
def Obligations.InPlaceTransformAgrees : Prop :=
  ∀ (p : Params) (H B K S D : Words) (w : Work), K = H → S = xorWords B K → D = S →
    w = Work.run p 10 ⟨B, K, S, 0⟩ → xorWords D w.S = xform p H B

/-- 95_test_vectors.md section 6: with every table entry zero the transform is the exclusive-or of digest and block,
`RC[10]` folded into word 0. It tests the order of rounds, the feed-forward and the key addition without a table. -/
def Obligations.ZeroTablesExposeThePlumbing : Prop :=
  ∀ (H B : Words) (i : Fin 8),
    (xform paramsZ H B)[i] = H[i] ^^^ B[i] ^^^ (if i = 0 then 0xCA2DBF07AD5A8333 else 0)

/-- R125: `ABSORB` of any 64 bytes completes; `H`, `LEN` and the response are as the rule says, and `BUF`, the
constants and what the host presents next are unchanged (the working registers hold no specified value after it). -/
def Obligations.AbsorbCompletes : Prop :=
  ∀ (s : State) (m : List Byte) (M : Block), m.length = 64 → (∀ n : Fin 64, m[n.val]? = some M[n]) →
    ∃ t, exec (.absorb m) s = .next t ∧
      t.H = xform s.par s.H (words M) ∧ t.LEN.toNat = (s.LEN.toNat + 512) % 2 ^ 128 ∧
      t.rsps = s.rsps ++ [⟨.ok, 0, []⟩] ∧ t.BUF = s.BUF ∧ t.par = s.par ∧ t.cmds = s.cmds

/-- R126, as two 64-bit halves: the carry goes from the low half into the high half, the carry out of the high half
is discarded. -/
def Obligations.AbsorbCarriesBetweenLengthHalves : Prop :=
  ∀ (s : State) (m : List Byte), m.length = 64 →
    ∃ t, exec (.absorb m) s = .next t ∧
      t.LEN = s.LEN + 512 ∧ t.LEN_LO.toNat = (s.LEN_LO.toNat + 512) % 2 ^ 64 ∧
      t.LEN_HI.toNat =
        if s.LEN_LO.toNat + 512 ≥ 2 ^ 64 then (s.LEN_HI.toNat + 1) % 2 ^ 64 else s.LEN_HI.toNat

/-! ## Padding, FINAL and INIT (44_padding_finalizer.md) -/

/-- R142: the total bit length, that the reduction never acts on a multiple of 512, and that it is `8n` for a message
of `n` bytes. -/
def Obligations.TotalLengthInBits : Prop :=
  (∀ (LEN : BitVec 128) (L : BitVec 6), (totalBits LEN L).toNat = (LEN.toNat + 8 * L.toNat) % 2 ^ 128) ∧
  (∀ (LEN : BitVec 128) (L : BitVec 6), 512 ∣ LEN.toNat →
    (totalBits LEN L).toNat = LEN.toNat + 8 * L.toNat ∧
    ((totalBits LEN L).extractLsb' 0 9).toNat = 8 * L.toNat ∧
    (totalBits LEN L).extractLsb' 9 119 = LEN.extractLsb' 9 119) ∧
  (∀ n : Nat, 8 * n < 2 ^ 128 →
    (totalBits (BitVec.ofNat 128 (512 * (n / 64))) (BitVec.ofNat 6 (n % 64))).toNat = 8 * n)

/-- R143: `PAD`, its zero fill (the least that leaves 32 bytes free, `31 - L` modulo 64) and its length. -/
def Obligations.PaddingLeaves32BytesFree : Prop :=
  ∀ (tail : List Byte) (tot : BitVec 128), tail.length ≤ 63 →
    ∃ z : Nat, (z : Int) = (31 - (tail.length : Int)) % 64 ∧
      (tail.length + 1 + z) % 64 = 32 ∧ (∀ z' : Nat, (tail.length + 1 + z') % 64 = 32 → z ≤ z') ∧
      pad tail tot = tail ++ [0x80] ++ List.replicate z 0 ++ List.replicate 16 0 ++ be128 tot ∧
      (pad tail tot).length = tail.length + 1 + z + 32 ∧
      (pad tail tot).length = (if tail.length ≤ 31 then 64 else 128)

/-- R144 and R145: one block for tails of up to 31 bytes, two above, and every byte of them. -/
def Obligations.PaddingBlockLayout : Prop :=
  ∀ (tail : List Byte) (tot : BitVec 128), tail.length ≤ 63 →
    (tail.length ≤ 31 → ∃ P : Block, padBlocks tail tot = [P] ∧
      ∀ n : Fin 64, P[n] =
        if n.val < tail.length then tail.getD n.val 0 else if n.val = tail.length then 0x80
        else if n.val < 48 then 0 else tot.extractLsb' (120 - 8 * (n.val - 48)) 8) ∧
    (32 ≤ tail.length → ∃ P Q : Block, padBlocks tail tot = [P, Q] ∧
      (∀ n : Fin 64, P[n] =
        if n.val < tail.length then tail.getD n.val 0 else if n.val = tail.length then 0x80 else 0) ∧
      ∀ n : Fin 64, Q[n] = if n.val < 48 then 0 else tot.extractLsb' (120 - 8 * (n.val - 48)) 8)

/-- R43: the last padding block: bytes 32 to 47 zero, then the two halves of the length, high half first; as words
`B[4]` and `B[5]` zero, `B[6]` and `B[7]` the halves; and the worked example, a length of 24. -/
def Obligations.LengthFieldWords : Prop :=
  ∀ (tail : List Byte) (tot : BitVec 128), tail.length ≤ 63 →
    ∃ P : Block, (padBlocks tail tot).getLast? = some P ∧
      (words P)[4] = 0 ∧ (words P)[5] = 0 ∧
      (words P)[6] = tot.extractLsb' 64 64 ∧ (words P)[7] = tot.extractLsb' 0 64 ∧
      (∀ n : Fin 64, 32 ≤ n.val → n.val < 48 → P[n] = 0) ∧
      P.toList.drop 48 = unbe64 (tot.extractLsb' 64 64) ++ unbe64 (tot.extractLsb' 0 64) ∧
      (tot = 24 → (∀ n : Fin 64, 32 ≤ n.val → n.val ≤ 62 → P[n] = 0) ∧ P[63] = 0x18)

/-- R140, R147: `FINAL` with a legal `N` completes: the padding blocks go through the transform in order, the
response carries the first `N` bytes of the digest, the instance is cleared, the constants and what the host presents
next are unchanged. -/
def Obligations.FinalCompletes : Prop :=
  ∀ (s : State) (L : BitVec 6) (N : BitVec 8) (tail : List Byte),
    tail.length = L.toNat → 1 ≤ N.toNat → N.toNat ≤ 64 →
    ∃ (t : State) (H' : Words) (out : List Byte), exec (.final L N tail) s = .next t ∧
      (tail.length ≤ 31 → ∃ P, padBlocks tail (totalBits s.LEN L) = [P] ∧ H' = xform s.par s.H (words P)) ∧
      (32 ≤ tail.length → ∃ P Q, padBlocks tail (totalBits s.LEN L) = [P, Q] ∧
        H' = xform s.par (xform s.par s.H (words P)) (words Q)) ∧
      out.length = N.toNat ∧
      (∀ n : Nat, n < N.toNat → out[n]? = (H'[n / 8]?).map fun w => byte w (Fin.ofNat 8 (n % 8))) ∧
      t.rsps = s.rsps ++ [⟨.ok, N.toNat, out⟩] ∧
      t.H = zeroWords ∧ t.LEN = 0 ∧ t.BUF = zeroBlock ∧ t.par = s.par ∧ t.cmds = s.cmds

/-- R171, R172 and R173: only `FINAL` raises InvalidOutputSize, exactly when `N = 0` or `N > 64`; then nothing but
the response changes, and it carries status 01, no length and no byte. -/
def Obligations.InvalidOutputSizeIsPrecise : Prop :=
  (∀ (s : State) (L : BitVec 6) (N : BitVec 8) (tail : List Byte), tail.length = L.toNat →
    ∃ t r, exec (.final L N tail) s = .next t ∧ t.rsps = s.rsps ++ [r] ∧
      (r.status = .invalidOutputSize ↔ N = 0 ∨ 64 < N.toNat) ∧
      (N = 0 ∨ 64 < N.toNat → r = ⟨.invalidOutputSize, 0, []⟩ ∧ t = { s with rsps := s.rsps ++ [r] })) ∧
  (∀ (s t : State), exec .init s = .next t → ∃ r, t.rsps = s.rsps ++ [r] ∧ r.status ≠ .invalidOutputSize) ∧
  (∀ (s t : State) (m : List Byte), exec (.absorb m) s = .next t →
    ∃ r, t.rsps = s.rsps ++ [r] ∧ r.status ≠ .invalidOutputSize) ∧
  Status.invalidOutputSize.code = 0b01

/-- R148: the output for a smaller legal `N` is a prefix of the output for a larger one, and `N` changes nothing else. -/
def Obligations.TruncationIsAPrefix : Prop :=
  ∀ (s : State) (L : BitVec 6) (N₁ N₂ : BitVec 8) (tail : List Byte), tail.length = L.toNat →
    1 ≤ N₁.toNat → N₁.toNat ≤ N₂.toNat → N₂.toNat ≤ 64 →
    ∃ (t : State) (out : List Byte), out.length = N₂.toNat ∧
      exec (.final L N₂ tail) s = .next { t with rsps := s.rsps ++ [⟨.ok, N₂.toNat, out⟩] } ∧
      exec (.final L N₁ tail) s = .next { t with rsps := s.rsps ++ [⟨.ok, N₁.toNat, out.take N₁.toNat⟩] }

/-- R150: `INIT` completes in every state; `H`, `LEN`, `BUF` become zero, the response is OK, nothing else changes;
on a fresh instance nothing but the response changes; after it, all that a later command depends on is as after a
hardware reset. -/
def Obligations.InitCompletes : Prop :=
  ∀ s : State, ∃ t, exec .init s = .next t ∧
    t = { s with H := zeroWords, LEN := 0, BUF := zeroBlock, rsps := s.rsps ++ [⟨.ok, 0, []⟩] } ∧
    (s.Fresh → t = { s with rsps := s.rsps ++ [⟨.ok, 0, []⟩] }) ∧
    t.SameInputs { State.reset with par := s.par, cmds := s.cmds } ∧ t.SameInputs s.hardwareReset

/-- R149: after a successful `FINAL` the instance is fresh and the digest is gone: a second `FINAL` with no tail
answers with the digest of the empty message, whatever the state before the first. -/
def Obligations.DigestIsDeliveredOnce : Prop :=
  ∀ (s : State) (L : BitVec 6) (N N' : BitVec 8) (tail : List Byte), tail.length = L.toNat →
    1 ≤ N.toNat → N.toNat ≤ 64 → 1 ≤ N'.toNat → N'.toNat ≤ 64 →
    ∃ t u r, exec (.final L N tail) s = .next t ∧ t.H = zeroWords ∧ t.LEN = 0 ∧ t.BUF = zeroBlock ∧
      exec (.final 0 N' []) t = .next u ∧ u.rsps = t.rsps ++ [r] ∧ r.status = .ok ∧ r.dlen = N'.toNat ∧
      r.dout = (messageDigest s.par []).toList.take N'.toNat

/-- R157: for every message below the length premise (R202) and every legal `N`, from every state, running the
expansion of `HASH N, M` gives an OK for `INIT`, one for each whole block, and last the first `N` bytes of the
message's digest; the instance is left fresh, nothing of the message before it survives (log entries 2 and 3: how the
model holds the ports). -/
def Obligations.HashOfWholeMessage : Prop :=
  ∀ (s : State) (N : BitVec 8) (M : List Byte) (rest : List PortEvent),
    1 ≤ N.toNat → N.toNat ≤ 64 → 8 * M.length < 2 ^ 128 →
    s.cmds = present (hashExpansion N M) ++ rest →
    ∃ t, Host.Core.run core (M.length / 64 + 2) s = .next t ∧ t.Fresh ∧ t.par = s.par ∧ t.cmds = rest ∧
      t.rsps = s.rsps ++ List.replicate (M.length / 64 + 1) ⟨.ok, 0, []⟩ ++
        [⟨.ok, N.toNat, (messageDigest s.par M).toList.take N.toNat⟩]

/-! ## The whole machine (10_state.md, 20_memory.md, 60_exceptions.md, 70_reset_and_hazards.md) -/

/-- R190, the state after reset where the spec gives it: `H`, `LEN`, `BUF` zero, the constants W (D1), no response;
what the host presents (nothing) is the model's choice (log entry 2). -/
def Obligations.ResetState : Prop :=
  State.reset.Fresh ∧ State.reset.par = paramsW ∧ State.reset.rsps = [] ∧ State.reset.cmds = []

/-- R191: a hardware reset, between commands or during one (which is abandoned without a response), leaves the fresh
state and changes no constant, as `INIT` and a successful `FINAL` leave the fresh state. That it arrives as an event
the host side presents is the model's choice (log entry 8). -/
def Obligations.ThreeWaysToTheFreshState : Prop :=
  (∀ (s : State) (during : Option (BitVec 16 × List Byte)) (rest : List PortEvent),
    s.cmds = .hardwareReset during :: rest →
    ∃ t, step s = .next t ∧ t.Fresh ∧ t.par = s.par ∧ t.rsps = s.rsps ∧ t.cmds = rest) ∧
  (∀ s t : State, exec .init s = .next t → t.Fresh) ∧
  (∀ (s t : State) (L : BitVec 6) (N : BitVec 8) (tail : List Byte), 1 ≤ N.toNat → N.toNat ≤ 64 →
    exec (.final L N tail) s = .next t → t.Fresh)

/-- The invariant of the machine holds right after reset. -/
def Obligations.InvariantHoldsAtReset : Prop := State.reset.Inv

/-- Every step from every state that meets the invariant keeps it: `LEN` a multiple of 512 (R25), `BUF` empty (R26),
the constants fixed (R84), every response given well-formed (R66). -/
def Obligations.StepKeepsInvariant : Prop := ∀ s t : State, s.Inv → step s = .next t → t.Inv

/-- R84: no step, whatever the host presents, writes `T` or `RC` (or changes the wired gather). -/
def Obligations.ConstantsAreNeverWritten : Prop := ∀ s t : State, step s = .next t → t.par = s.par

/-- R22: what a step does to `H`, by what the host presents: an `ABSORB` applies one Block Transform, a `FINAL` clears
it if it succeeds and leaves it if it fails, an `INIT` and a hardware reset clear it, a reserved word and an idle step
leave it. -/
def Obligations.DigestIsWrittenOnlyByItsCommands : Prop :=
  ∀ s t : State, step s = .next t →
    (∀ m rest, s.cmds = .command 0x4000 m :: rest → t.H = xform s.par s.H (words (blockOf m))) ∧
    (∀ (L : BitVec 6) (N : BitVec 8) (tail : List Byte) (rest : List PortEvent),
      s.cmds = .command ((0b10 : BitVec 2) ++ L ++ N) tail :: rest →
      t.H = if 1 ≤ N.toNat ∧ N.toNat ≤ 64 then zeroWords else s.H) ∧
    (∀ din rest, s.cmds = .command 0x0000 din :: rest → t.H = zeroWords) ∧
    (∀ during rest, s.cmds = .hardwareReset during :: rest → t.H = zeroWords) ∧
    (∀ cmd din rest, s.cmds = .command cmd din :: rest → decode cmd din = .reserved → t.H = s.H) ∧
    (s.cmds = [] → t.H = s.H)

/-- R60 and R66: every command that completes gives exactly one response, after those before it; its `DLEN` is the
number of its output bytes, `N` if it is OK and answers a `FINAL`, and 0 otherwise (log entries 2 and 3: how the model
holds the ports). -/
def Obligations.OneResponsePerCommand : Prop :=
  ∀ (s t : State) (cmd : BitVec 16) (din : List Byte) (rest : List PortEvent),
    s.cmds = .command cmd din :: rest → step s = .next t →
    t.cmds = rest ∧ ∃ r : Response, t.rsps = s.rsps ++ [r] ∧ r.dlen = r.dout.length ∧ r.dlen ≤ 64 ∧
      r.dlen = if r.status = .ok ∧ cmd.extractLsb' 14 2 = 0b10 then (cmd.extractLsb' 0 8).toNat else 0

/-- R55, R27, R33: outcomes depend on `H`, `LEN`, the command and the parameters alone. Whatever `BUF`, the working
registers, the free values drawn and the earlier responses are, a step stops in both states with the same reason, or
goes on in both, to states that agree on the same, with the same new responses. -/
def Obligations.OutcomesDependOnInputsAlone : Prop :=
  ∀ s s' : State, s.SameInputs s' →
    (∃ r, step s = .refused r ∧ step s' = .refused r) ∨
    (∃ t t' new, step s = .next t ∧ step s' = .next t' ∧ t.SameInputs t' ∧
      t.rsps = s.rsps ++ new ∧ t'.rsps = s'.rsps ++ new)

/-- The block never halts (R204, R174): where every payload presented has the length its command word announces, a
run of any length goes on to its end. -/
def Obligations.FramedRunsNeverStop : Prop := ∀ (n : Nat) (s : State), s.framed = true → SafeRun n s
end

