-- ==== Sys2Proof/Laws/Bits.lean ====
section
/-! SUPPORT. What the bit and byte helpers do: a lane of a packed word, an element of a file, lengths. -/

namespace Sys2Proof.Machine

/-! ## Lanes -/

theorem byte_getElem (w : Word) (j : Fin 8) (b : Nat) (h : b < 8) :
    (byte w j)[b] = w.getLsbD (56 - 8 * j.val + b) := by
  simp [byte]

@[simp] theorem byte_xor (a b : Word) (j : Fin 8) : byte (a ^^^ b) j = byte a j ^^^ byte b j := by
  ext i hi
  simp [byte]

@[simp] theorem byte_zero (j : Fin 8) : byte 0#64 j = 0#8 := by
  ext i hi
  simp [byte]

theorem getLsbD_be64 (b : Fin 8 → Byte) (j : Fin 8) (i : Nat) (hi : i < 8) :
    (be64 b).getLsbD (56 - 8 * j.val + i) = (b j).getLsbD i := by
  unfold be64
  simp only [BitVec.getLsbD_append]
  fin_cases j <;>
    simp (disch := omega) only [if_neg, if_pos, Fin.zero_eta, Fin.mk_one, Fin.reduceFinMk, Fin.isValue] <;>
    congr 1 <;> omega

@[simp] theorem byte_be64 (b : Fin 8 → Byte) (j : Fin 8) : byte (be64 b) j = b j := by
  ext i hi
  rw [byte_getElem _ _ _ hi, getLsbD_be64 _ _ _ hi, BitVec.getLsbD_eq_getElem]

/-- Two words with the same lanes are the same word. -/
theorem word_ext_lanes {a b : Word} (h : ∀ j, byte a j = byte b j) : a = b := by
  ext i hi
  have hj := congrArg (fun x : Byte => x.getLsbD (i % 8)) (h ⟨7 - i / 8, by omega⟩)
  have hi' : 56 - 8 * (7 - i / 8) + i % 8 = i := by omega
  simpa [byte, hi', Nat.mod_lt, BitVec.getLsbD_eq_getElem, hi] using hj

@[simp] theorem be64_byte (w : Word) : be64 (byte w) = w := word_ext_lanes fun j => byte_be64 _ j

@[simp] theorem unbe64_length (w : Word) : (unbe64 w).length = 8 := rfl

@[simp] theorem be128_length (v : BitVec 128) : (be128 v).length = 16 := rfl

theorem unbe64_eq_ofFn (w : Word) : unbe64 w = List.ofFn (byte w) := rfl

/-! ## Files of words and blocks -/

@[simp] theorem xorWords_getElem (a b : Words) (i : Nat) (h : i < 8) : (xorWords a b)[i] = a[i] ^^^ b[i] := by
  simp [xorWords]

@[simp] theorem zeroWords_getElem (i : Nat) (h : i < 8) : zeroWords[i] = 0 := by simp [zeroWords]

@[simp] theorem zeroBlock_getElem (i : Nat) (h : i < 64) : zeroBlock[i] = 0 := by simp [zeroBlock]

@[simp] theorem words_getElem (m : Block) (i : Nat) (h : i < 8) :
    (words m)[i] = be64 fun j => m[8 * i + j.val] := by
  simp [words]

@[simp] theorem bytes_getElem (H : Words) (n : Nat) (h : n < 64) :
    (bytes H)[n] = byte (H[n / 8]) ⟨n % 8, by omega⟩ := by
  simp [bytes]

@[simp] theorem blockOf_getElem (l : List Byte) (n : Nat) (h : n < 64) : (blockOf l)[n] = l.getD n 0 := by
  simp [blockOf]

/-! ## Rotation and the half swap -/

@[simp] theorem swap32_xor (a b : Word) : swap32 (a ^^^ b) = swap32 a ^^^ swap32 b := by
  ext i hi
  simp [swap32, rotr64, BitVec.getElem_rotateRight]
  split <;> simp

@[simp] theorem swap32_zero : swap32 0#64 = 0#64 := by decide

/-! ## Grids -/

@[simp] theorem mapVec_get {α β : Type} {n : Nat} (f : α → β) (v : Vector α n) (i : Fin n) :
    (mapVec f v).get i = f (v.get i) := by
  simp [mapVec, Vector.get]
  rfl

@[simp] theorem entry_mapGrid {α β : Type} (f : α → β) (g : Grid α) (b : Byte) :
    entry (mapGrid f g) b = f (entry g b) := by
  simp [entry, mapGrid]

/-! ## Pieces of 64 bytes -/

@[simp] theorem chunks_length (n : Nat) (l : List Byte) : (chunks n l).length = n := by
  induction n generalizing l with
  | zero => rfl
  | succ n ih => simp [chunks, ih]

@[simp] theorem blocks_length (l : List Byte) : (blocks l).length = l.length / 64 := by simp [blocks]

/-- Each of the first `n` pieces is whole where the list is long enough. -/
theorem length_of_mem_chunks {n : Nat} {l c : List Byte} (h : 64 * n ≤ l.length) (hc : c ∈ chunks n l) :
    c.length = 64 := by
  induction n generalizing l with
  | zero => simp [chunks] at hc
  | succ n ih =>
    simp only [chunks, List.mem_cons] at hc
    rcases hc with rfl | hc
    · simp; omega
    · exact ih (by simp; omega) hc

/-! ## The halves of a 128-bit value -/

@[simp] theorem hi64_toNat (v : BitVec 128) : (hi64 v).toNat = v.toNat / 2 ^ 64 := by
  have := v.isLt
  simp [hi64, Nat.shiftRight_eq_div_pow]
  omega

@[simp] theorem lo64_toNat (v : BitVec 128) : (lo64 v).toNat = v.toNat % 2 ^ 64 := by simp [lo64]

theorem byte_hi64 (v : BitVec 128) (j : Fin 8) : byte (hi64 v) j = v.extractLsb' (120 - 8 * j.val) 8 := by
  ext i hi
  rw [byte_getElem _ _ _ hi]
  simp [hi64]
  have := j.2
  rw [decide_eq_true (by omega), Bool.true_and]
  congr 1
  omega

theorem byte_lo64 (v : BitVec 128) (j : Fin 8) : byte (lo64 v) j = v.extractLsb' (56 - 8 * j.val) 8 := by
  ext i hi
  rw [byte_getElem _ _ _ hi]
  simp [lo64]
  have := j.2
  intros
  omega

/-- Byte `n` of `BE128`. -/
theorem be128_getD (v : BitVec 128) {n : Nat} (h : n < 16) :
    (be128 v).getD n 0 = v.extractLsb' (120 - 8 * n) 8 := by
  interval_cases n <;> simp [be128, unbe64, byte_hi64, byte_lo64]

/-- The eight elements of a file, written out. -/
theorem Words.toList_eq (H : Words) : H.toList = [H[0], H[1], H[2], H[3], H[4], H[5], H[6], H[7]] := by
  obtain ⟨⟨l⟩, hl⟩ := H
  simp at hl
  match l, hl with
  | [a0, a1, a2, a3, a4, a5, a6, a7], _ => rfl

/-! ## Padding -/

@[simp] theorem pad_length (tail : List Byte) (tot : BitVec 128) :
    (pad tail tot).length = tail.length + 1 + padZeros tail.length + 32 := by
  simp [pad]
  omega

/-- The padded tail as a tail, a marker, one run of zeros and a length. -/
theorem pad_eq (tail : List Byte) (tot : BitVec 128) :
    pad tail tot = tail ++ Config.padMarker :: (List.replicate (padZeros tail.length + 16) 0 ++ be128 tot) := by
  simp [pad, ← List.replicate_append_replicate]

/-- Byte `n` of the padded tail. -/
theorem pad_getD (tail : List Byte) (tot : BitVec 128) {n : Nat} (hn : n < (pad tail tot).length) :
    (pad tail tot).getD n 0 =
      if n < tail.length then tail.getD n 0 else if n = tail.length then 0x80
      else if n + 16 < (pad tail tot).length then 0
      else tot.extractLsb' (120 - 8 * (n + 16 - (pad tail tot).length)) 8 := by
  have hl := pad_length tail tot
  generalize hlen : (pad tail tot).length = len at *
  rw [pad_eq]
  simp only [List.getD_eq_getElem?_getD]
  by_cases h1 : n < tail.length
  · rw [List.getElem?_append_left h1]; simp [h1]
  rw [List.getElem?_append_right (by omega), if_neg h1]
  by_cases h2 : n = tail.length
  · subst h2; simp [Config.padMarker]
  rw [if_neg h2, show n - tail.length = (n - tail.length - 1) + 1 by omega, List.getElem?_cons_succ]
  by_cases h3 : n + 16 < len
  · rw [List.getElem?_append_left (by simp; omega), if_pos h3, List.getElem?_replicate]
    split <;> rfl
  · rw [List.getElem?_append_right (by simp; omega), if_neg h3, ← be128_getD _ (by omega),
      List.getD_eq_getElem?_getD]
    congr 2
    simp; omega

theorem padZeros_of_le {L : Nat} (h : L ≤ 31) : padZeros L = 31 - L := by
  simp [padZeros]; omega

theorem padZeros_of_ge {L : Nat} (h : 32 ≤ L) (h' : L ≤ 63) : padZeros L = 95 - L := by
  simp [padZeros]; omega

end Sys2Proof.Machine
end

