-- ==== Sys2Proof/Laws/Decode.lean ====
section
/-! SUPPORT. What the decoder reads, case by case. -/

namespace Sys2Proof

@[simp] theorem opField_final (L : BitVec 6) (N : BitVec 8) : opField ((0b10 : BitVec 2) ++ L ++ N) = 0b10 := by
  ext i hi
  simp only [opField, BitVec.getElem_extractLsb', BitVec.getLsbD_append]
  simp (disch := omega) only [if_neg]
  rw [← BitVec.getLsbD_eq_getElem]; congr 1; omega

@[simp] theorem lField_final (L : BitVec 6) (N : BitVec 8) : lField ((0b10 : BitVec 2) ++ L ++ N) = L := by
  ext i hi
  simp only [lField, BitVec.getElem_extractLsb', BitVec.getLsbD_append]
  simp (disch := omega) only [if_neg, if_pos]
  rw [← BitVec.getLsbD_eq_getElem]; congr 1; omega

@[simp] theorem nField_final (L : BitVec 6) (N : BitVec 8) : nField ((0b10 : BitVec 2) ++ L ++ N) = N := by
  ext i hi
  simp only [nField, BitVec.getElem_extractLsb', BitVec.getLsbD_append]
  simp (disch := omega) only [if_neg, if_pos]
  rw [← BitVec.getLsbD_eq_getElem]; congr 1; omega

theorem initRow_holds_iff (w : BitVec 16) : initRow.holds w = true ↔ w = 0x0000 := by
  have : (0xFFFF : BitVec 16) = BitVec.allOnes 16 := by decide
  simp [OpcodeRow.holds, initRow, this, -BitVec.reduceAllOnes]

theorem absorbRow_holds_iff (w : BitVec 16) : absorbRow.holds w = true ↔ w = 0x4000 := by
  have : (0xFFFF : BitVec 16) = BitVec.allOnes 16 := by decide
  simp [OpcodeRow.holds, absorbRow, this, -BitVec.reduceAllOnes]

/-- A word is its three fields. -/
theorem eq_fields (w : BitVec 16) : w = opField w ++ lField w ++ nField w := by
  ext i hi
  rw [← BitVec.getLsbD_eq_getElem, ← BitVec.getLsbD_eq_getElem]
  simp only [nField, opField, lField, BitVec.getLsbD_append, BitVec.getLsbD_extractLsb']
  split
  · simp_all
  split
  · rw [decide_eq_true (by omega), Bool.true_and]; congr 1; omega
  · rw [decide_eq_true (by omega), Bool.true_and]; congr 1; omega

/-- Bits 15:14 are the top two bits: the mask row `FINAL` asks for `op = 10`. -/
theorem finalRow_holds_iff (w : BitVec 16) : finalRow.holds w = true ↔ opField w = 0b10 := by
  have key : opField (w &&& 0xC000) = opField w := by
    ext i hi
    interval_cases i <;> simp [opField]
  simp only [OpcodeRow.holds, finalRow, beq_iff_eq]
  refine ⟨fun h => by rw [← key, h]; decide, fun h => ?_⟩
  have h0 : w.getLsbD 14 = false := by simpa [opField] using congrArg (fun x : BitVec 2 => x.getLsbD 0) h
  have h1 : w.getLsbD 15 = true := by simpa [opField] using congrArg (fun x : BitVec 2 => x.getLsbD 1) h
  ext i hi
  simp only [BitVec.getLsbD_eq_getElem, Nat.reduceLT] at h0 h1
  interval_cases i <;> simp_all
theorem payloadBytes_final (L : BitVec 6) (N : BitVec 8) :
    payloadBytes ((0b10 : BitVec 2) ++ L ++ N) = L.toNat := by
  rw [payloadBytes, opField_final, lField_final]
  rfl

/-- What decodes to a command, and to which. -/
theorem decode_eq_instr {w : BitVec 16} {din : List Byte} {i : Instr} (h : decode w din = .instr i) :
    (w = 0x0000 ∧ din = [] ∧ i = .init) ∨ (w = 0x4000 ∧ din.length = 64 ∧ i = .absorb din) ∨
    ∃ L N, w = (0b10 : BitVec 2) ++ L ++ N ∧ din.length = L.toNat ∧ i = .final L N din := by
  unfold decode at h
  split at h
  · cases h
  rename_i hlen
  simp only [ne_eq, Decidable.not_not] at hlen
  split at h
  · rename_i hw
    rw [initRow_holds_iff] at hw
    subst hw
    cases h
    exact .inl ⟨rfl, List.length_eq_zero_iff.mp hlen, rfl⟩
  split at h
  · rename_i hw
    rw [absorbRow_holds_iff] at hw
    subst hw
    cases h
    exact .inr (.inl ⟨rfl, hlen, rfl⟩)
  split at h
  · rename_i hw
    rw [finalRow_holds_iff] at hw
    cases h
    exact .inr (.inr ⟨lField w, nField w, by rw [← hw]; exact eq_fields w, by simpa [payloadBytes, hw] using hlen, rfl⟩)
  · cases h

/-- The decoder looks at the payload's length first. -/
theorem decode_eq_payloadLength {w : BitVec 16} {din : List Byte} :
    decode w din = .payloadLength ↔ din.length ≠ payloadBytes w := by
  unfold decode
  by_cases h : din.length = payloadBytes w <;> cases initRow.holds w <;> cases absorbRow.holds w <;>
    cases finalRow.holds w <;> simp [h]

/-- What decodes to nothing is a word of no row, with the payload it announces. -/
theorem decode_eq_reserved {w : BitVec 16} {din : List Byte} :
    decode w din = .reserved ↔
      din.length = payloadBytes w ∧ w ≠ 0x0000 ∧ w ≠ 0x4000 ∧ opField w ≠ 0b10 := by
  have h1 := initRow_holds_iff w
  have h2 := absorbRow_holds_iff w
  have h3 := finalRow_holds_iff w
  unfold decode
  by_cases h : din.length = payloadBytes w <;> cases e1 : initRow.holds w <;> cases e2 : absorbRow.holds w <;>
    cases e3 : finalRow.holds w <;> simp_all

end Sys2Proof
end

