-- ==== Sys2Proof/Laws/State.lean ====
section
/-! SUPPORT. One lemma a field and update of the state, true by definition, so that no later proof unfolds a record. -/

namespace Sys2Proof.Machine

/-! ## `clear` -/

@[simp] theorem State.clear_H (s : State) : s.clear.H = zeroWords := rfl
@[simp] theorem State.clear_LEN (s : State) : s.clear.LEN = 0 := rfl
@[simp] theorem State.clear_BUF (s : State) : s.clear.BUF = zeroBlock := rfl
@[simp] theorem State.clear_work (s : State) : s.clear.work = s.work := rfl
@[simp] theorem State.clear_par (s : State) : s.clear.par = s.par := rfl
@[simp] theorem State.clear_cmds (s : State) : s.clear.cmds = s.cmds := rfl
@[simp] theorem State.clear_rsps (s : State) : s.clear.rsps = s.rsps := rfl
@[simp] theorem State.clear_draws (s : State) : s.clear.draws = s.draws := rfl

/-! ## `respond` -/

@[simp] theorem State.respond_H (s : State) (r : Response) : (s.respond r).H = s.H := rfl
@[simp] theorem State.respond_LEN (s : State) (r : Response) : (s.respond r).LEN = s.LEN := rfl
@[simp] theorem State.respond_BUF (s : State) (r : Response) : (s.respond r).BUF = s.BUF := rfl
@[simp] theorem State.respond_work (s : State) (r : Response) : (s.respond r).work = s.work := rfl
@[simp] theorem State.respond_par (s : State) (r : Response) : (s.respond r).par = s.par := rfl
@[simp] theorem State.respond_cmds (s : State) (r : Response) : (s.respond r).cmds = s.cmds := rfl
@[simp] theorem State.respond_rsps (s : State) (r : Response) : (s.respond r).rsps = s.rsps ++ [r] := rfl
@[simp] theorem State.respond_draws (s : State) (r : Response) : (s.respond r).draws = s.draws := rfl

/-! ## `raise` -/

@[simp] theorem State.raise_H (s : State) (e : Status) : (s.raise e).H = s.H := rfl
@[simp] theorem State.raise_LEN (s : State) (e : Status) : (s.raise e).LEN = s.LEN := rfl
@[simp] theorem State.raise_BUF (s : State) (e : Status) : (s.raise e).BUF = s.BUF := rfl
@[simp] theorem State.raise_work (s : State) (e : Status) : (s.raise e).work = s.work := rfl
@[simp] theorem State.raise_par (s : State) (e : Status) : (s.raise e).par = s.par := rfl
@[simp] theorem State.raise_cmds (s : State) (e : Status) : (s.raise e).cmds = s.cmds := rfl
@[simp] theorem State.raise_rsps (s : State) (e : Status) : (s.raise e).rsps = s.rsps ++ [errorResponse e] := rfl
@[simp] theorem State.raise_draws (s : State) (e : Status) : (s.raise e).draws = s.draws := rfl

/-! ## `illegal` -/

@[simp] theorem State.illegal_H (s : State) : s.illegal.H = s.H := rfl
@[simp] theorem State.illegal_LEN (s : State) : s.illegal.LEN = s.LEN := rfl
@[simp] theorem State.illegal_BUF (s : State) : s.illegal.BUF = s.BUF := rfl
@[simp] theorem State.illegal_work (s : State) : s.illegal.work = s.work := rfl
@[simp] theorem State.illegal_par (s : State) : s.illegal.par = s.par := rfl
@[simp] theorem State.illegal_cmds (s : State) : s.illegal.cmds = s.cmds := rfl
@[simp] theorem State.illegal_rsps (s : State) : s.illegal.rsps = s.rsps ++ [errorResponse .illegalCmd] := rfl
@[simp] theorem State.illegal_draws (s : State) : s.illegal.draws = s.draws := rfl

/-! ## `countBlock` -/

@[simp] theorem State.countBlock_H (s : State) : s.countBlock.H = s.H := by simp [countBlock]
@[simp] theorem State.countBlock_LEN (s : State) : s.countBlock.LEN = s.LEN + Config.blockBits := by simp [countBlock]
@[simp] theorem State.countBlock_BUF (s : State) : s.countBlock.BUF = s.BUF := by simp [countBlock]
@[simp] theorem State.countBlock_work (s : State) : s.countBlock.work = s.work := by simp [countBlock]
@[simp] theorem State.countBlock_par (s : State) : s.countBlock.par = s.par := by simp [countBlock]
@[simp] theorem State.countBlock_cmds (s : State) : s.countBlock.cmds = s.cmds := by simp [countBlock]
@[simp] theorem State.countBlock_rsps (s : State) : s.countBlock.rsps = s.rsps := by simp [countBlock]
@[simp] theorem State.countBlock_draws (s : State) : s.countBlock.draws = s.draws := by simp [countBlock]

/-! ## `releaseWork` -/

@[simp] theorem State.releaseWork_H (s : State) : s.releaseWork.H = s.H := rfl
@[simp] theorem State.releaseWork_LEN (s : State) : s.releaseWork.LEN = s.LEN := rfl
@[simp] theorem State.releaseWork_BUF (s : State) : s.releaseWork.BUF = s.BUF := rfl
@[simp] theorem State.releaseWork_work (s : State) : s.releaseWork.work = freeWork s.draws := rfl
@[simp] theorem State.releaseWork_par (s : State) : s.releaseWork.par = s.par := rfl
@[simp] theorem State.releaseWork_cmds (s : State) : s.releaseWork.cmds = s.cmds := rfl
@[simp] theorem State.releaseWork_rsps (s : State) : s.releaseWork.rsps = s.rsps := rfl
@[simp] theorem State.releaseWork_draws (s : State) : s.releaseWork.draws = s.draws + 1 := rfl

/-! ## `transform` -/

@[simp] theorem State.transform_H (s : State) (B : Words) : (s.transform B).H = xform s.par s.H B := rfl
@[simp] theorem State.transform_LEN (s : State) (B : Words) : (s.transform B).LEN = s.LEN := rfl
@[simp] theorem State.transform_BUF (s : State) (B : Words) : (s.transform B).BUF = s.BUF := rfl
@[simp] theorem State.transform_work (s : State) (B : Words) : (s.transform B).work = (Work.load s.H B).run s.par Config.rounds := rfl
@[simp] theorem State.transform_par (s : State) (B : Words) : (s.transform B).par = s.par := rfl
@[simp] theorem State.transform_cmds (s : State) (B : Words) : (s.transform B).cmds = s.cmds := rfl
@[simp] theorem State.transform_rsps (s : State) (B : Words) : (s.transform B).rsps = s.rsps := rfl
@[simp] theorem State.transform_draws (s : State) (B : Words) : (s.transform B).draws = s.draws := rfl

/-! ## `stage` -/

@[simp] theorem State.stage_H (s : State) (P : Block) : (s.stage P).H = xform s.par s.H (words P) := rfl
@[simp] theorem State.stage_LEN (s : State) (P : Block) : (s.stage P).LEN = s.LEN := rfl
@[simp] theorem State.stage_BUF (s : State) (P : Block) : (s.stage P).BUF = P := rfl
@[simp] theorem State.stage_work (s : State) (P : Block) : (s.stage P).work = (Work.load s.H (words P)).run s.par Config.rounds := rfl
@[simp] theorem State.stage_par (s : State) (P : Block) : (s.stage P).par = s.par := rfl
@[simp] theorem State.stage_cmds (s : State) (P : Block) : (s.stage P).cmds = s.cmds := rfl
@[simp] theorem State.stage_rsps (s : State) (P : Block) : (s.stage P).rsps = s.rsps := rfl
@[simp] theorem State.stage_draws (s : State) (P : Block) : (s.stage P).draws = s.draws := rfl

/-! ## `hardwareReset` -/

@[simp] theorem State.hardwareReset_H (s : State) : s.hardwareReset.H = zeroWords := rfl
@[simp] theorem State.hardwareReset_LEN (s : State) : s.hardwareReset.LEN = 0 := rfl
@[simp] theorem State.hardwareReset_BUF (s : State) : s.hardwareReset.BUF = zeroBlock := rfl
@[simp] theorem State.hardwareReset_work (s : State) : s.hardwareReset.work = freeWork s.draws := rfl
@[simp] theorem State.hardwareReset_par (s : State) : s.hardwareReset.par = s.par := rfl
@[simp] theorem State.hardwareReset_cmds (s : State) : s.hardwareReset.cmds = s.cmds := rfl
@[simp] theorem State.hardwareReset_rsps (s : State) : s.hardwareReset.rsps = s.rsps := rfl
@[simp] theorem State.hardwareReset_draws (s : State) : s.hardwareReset.draws = s.draws + 1 := rfl

/-! ## `idle` -/

@[simp] theorem State.idle_eq (s : State) : s.idle = s := rfl

/-! ## `stageAll`: the digest registers go through every block, nothing but `BUF` and the working registers besides -/

@[simp] theorem State.stageAll_nil (s : State) : s.stageAll [] = s := rfl

@[simp] theorem State.stageAll_cons (s : State) (P : Block) (Ps : List Block) :
    s.stageAll (P :: Ps) = (s.stage P).stageAll Ps := rfl

@[simp] theorem State.stageAll_LEN (s : State) (Ps : List Block) : (s.stageAll Ps).LEN = s.LEN := by
  induction Ps generalizing s with
  | nil => rfl
  | cons P Ps ih => simp [ih]

@[simp] theorem State.stageAll_par (s : State) (Ps : List Block) : (s.stageAll Ps).par = s.par := by
  induction Ps generalizing s with
  | nil => rfl
  | cons P Ps ih => simp [ih]

@[simp] theorem State.stageAll_cmds (s : State) (Ps : List Block) : (s.stageAll Ps).cmds = s.cmds := by
  induction Ps generalizing s with
  | nil => rfl
  | cons P Ps ih => simp [ih]

@[simp] theorem State.stageAll_rsps (s : State) (Ps : List Block) : (s.stageAll Ps).rsps = s.rsps := by
  induction Ps generalizing s with
  | nil => rfl
  | cons P Ps ih => simp [ih]

@[simp] theorem State.stageAll_draws (s : State) (Ps : List Block) : (s.stageAll Ps).draws = s.draws := by
  induction Ps generalizing s with
  | nil => rfl
  | cons P Ps ih => simp [ih]

@[simp] theorem State.stageAll_H (s : State) (Ps : List Block) :
    (s.stageAll Ps).H = compress s.par s.H Ps := by
  induction Ps generalizing s with
  | nil => rfl
  | cons P Ps ih => simp [ih, compress]

/-! ## Responses -/

@[simp] theorem okResponse_status (out : List Byte) : (okResponse out).status = .ok := rfl
@[simp] theorem okResponse_dlen (out : List Byte) : (okResponse out).dlen = out.length := rfl
@[simp] theorem okResponse_dout (out : List Byte) : (okResponse out).dout = out := rfl
@[simp] theorem errorResponse_status (e : Status) : (errorResponse e).status = e := rfl
@[simp] theorem errorResponse_dlen (e : Status) : (errorResponse e).dlen = 0 := rfl
@[simp] theorem errorResponse_dout (e : Status) : (errorResponse e).dout = [] := rfl

/-! ## The event taken -/

theorem State.takeEvent_of_nil (s : State) (h : s.cmds = []) : s.takeEvent = none := by
  simp [takeEvent, h]

theorem State.takeEvent_of_cons (s : State) (e : PortEvent) (rest : List PortEvent) (h : s.cmds = e :: rest) :
    s.takeEvent = some (e, { s with cmds := rest }) := by
  simp [takeEvent, h]

end Sys2Proof.Machine
end

