-- ==== Sys2Proof/Laws/Ops.lean ====
section
/-! SUPPORT. One lemma an internal operation, saying once what it computes. -/

namespace Sys2Proof.Machine

/-- Word `i` of a Round Pass. -/
theorem rpass_getElem (p : Params) (src extra : Words) (i : Nat) (h : i < 8) :
    (rpass p src extra)[i] =
      swap32 (lookupGroup p src (p.GATHER.get ⟨i, h⟩).first)
        ^^^ lookupGroup p src (p.GATHER.get ⟨i, h⟩).second ^^^ extra[i] := by
  simp [rpass]

/-- The rounds add up: `n` rounds and one more are `n + 1` rounds. -/
theorem Work.run_succ (p : Params) (n : Nat) (w : Work) : w.run p (n + 1) = (w.run p n).round p := by
  induction n generalizing w with
  | zero => rfl
  | succ n ih => rw [Work.run, ih, Work.run]

@[simp] theorem Work.run_zero (p : Params) (w : Work) : w.run p 0 = w := rfl

@[simp] theorem Work.round_B (p : Params) (w : Work) : (w.round p).B = w.B := rfl
@[simp] theorem Work.round_K (p : Params) (w : Work) : (w.round p).K = kstep p w.K (w.RND + 1) := rfl
@[simp] theorem Work.round_S (p : Params) (w : Work) : (w.round p).S = rpass p w.S (w.round p).K := rfl
@[simp] theorem Work.round_RND (p : Params) (w : Work) : (w.round p).RND = w.RND + 1 := rfl

@[simp] theorem Work.run_B (p : Params) (n : Nat) (w : Work) : (w.run p n).B = w.B := by
  induction n with
  | zero => rfl
  | succ n ih => rw [Work.run_succ, Work.round_B, ih]

@[simp] theorem Work.load_B (H B : Words) : (Work.load H B).B = B := rfl
@[simp] theorem Work.load_K (H B : Words) : (Work.load H B).K = H := rfl
@[simp] theorem Work.load_S (H B : Words) : (Work.load H B).S = xorWords B H := rfl
@[simp] theorem Work.load_RND (H B : Words) : (Work.load H B).RND = 0 := rfl

/-- The round index of `n` rounds, `n` at most 10. -/
theorem Work.run_load_RND (p : Params) (H B : Words) {n : Nat} (h : n ≤ 10) :
    ((Work.load H B).run p n).RND = ⟨n, by omega⟩ := by
  induction n with
  | zero => rfl
  | succ n ih =>
    rw [Work.run_succ, Work.round_RND, ih (by omega)]
    ext
    simp [Fin.val_add]
    omega

/-- Word `i` of the transform: last state, block, digest. -/
theorem xform_getElem (p : Params) (H B : Words) (i : Nat) (h : i < 8) :
    (xform p H B)[i] = ((Work.load H B).run p Config.rounds).S[i] ^^^ B[i] ^^^ H[i] := by
  simp [xform, Work.feedForward]

/-- An entry of a table of instantiation W, from the base table. -/
theorem lookup_paramsW (k : Fin 4) (b : Byte) : lookup paramsW k b = rotr64 (entry T0 b) (8 * k.val) := by
  fin_cases k <;> exact entry_mapGrid _ _ _

/-- With every table entry zero a Round Pass is its extra term. -/
@[simp] theorem rpass_paramsZ (src extra : Words) : rpass paramsZ src extra = extra := by
  have hz (k : Fin 4) (b : Byte) : lookup paramsZ k b = 0 := by
    have : paramsZ.T.get k = zeroTable := by simp [paramsZ, Vector.get_eq_getElem]
    rw [lookup, this]
    simp [entry, zeroTable, Vector.get_eq_getElem]
  ext1 i hi
  simp [rpass_getElem, lookupGroup, hz]

@[simp] theorem compress_nil (p : Params) (H : Words) : compress p H [] = H := rfl

@[simp] theorem compress_cons (p : Params) (H : Words) (P : Block) (Ps : List Block) :
    compress p H (P :: Ps) = compress p (xform p H (words P)) Ps := rfl

theorem compress_append (p : Params) (H : Words) (Ps Qs : List Block) :
    compress p H (Ps ++ Qs) = compress p (compress p H Ps) Qs := by
  simp [compress]

end Sys2Proof.Machine
end

