-- ==== Sys2Proof/Laws/Exec.lean ====
section
/-! SUPPORT. What a meaning and a step can do, said once: if it answers a next state, then one of these. -/

namespace Sys2Proof.Machine

theorem badOutputSize_eq_true {N : BitVec 8} : badOutputSize N = true ↔ N = 0 ∨ 64 < N.toNat := by
  simp only [badOutputSize, Bool.or_eq_true, beq_iff_eq, decide_eq_true_eq]
  simp [Config.digestBytes, BitVec.toNat_eq]

theorem badOutputSize_eq_false {N : BitVec 8} : badOutputSize N = false ↔ 1 ≤ N.toNat ∧ N.toNat ≤ 64 := by
  rw [← Bool.not_eq_true, badOutputSize_eq_true, BitVec.toNat_eq]
  simp
  omega

theorem outputBytes_length {H : Words} {N : BitVec 8} (h : N.toNat ≤ 64) : (outputBytes H N).length = N.toNat := by
  simp [outputBytes, h]

/-! ## The state in which `FINAL` forms its output -/

@[simp] theorem finalDigest_LEN (L : BitVec 6) (tail : List Byte) (s : State) :
    (finalDigest L tail s).LEN = s.LEN := by
  simp [finalDigest]

@[simp] theorem finalDigest_par (L : BitVec 6) (tail : List Byte) (s : State) :
    (finalDigest L tail s).par = s.par := by
  simp [finalDigest]

@[simp] theorem finalDigest_cmds (L : BitVec 6) (tail : List Byte) (s : State) :
    (finalDigest L tail s).cmds = s.cmds := by
  simp [finalDigest]

@[simp] theorem finalDigest_rsps (L : BitVec 6) (tail : List Byte) (s : State) :
    (finalDigest L tail s).rsps = s.rsps := by
  simp [finalDigest]

@[simp] theorem finalDigest_draws (L : BitVec 6) (tail : List Byte) (s : State) :
    (finalDigest L tail s).draws = s.draws := by
  simp [finalDigest]

@[simp] theorem finalDigest_H (L : BitVec 6) (tail : List Byte) (s : State) :
    (finalDigest L tail s).H = compress s.par s.H (padBlocks tail (totalBits s.LEN L)) := by
  simp [finalDigest]

theorem execInit_inv {s t : State} (h : execInit s = .next t) : t = s.clear.respond (okResponse []) := by
  cases h; rfl

theorem execAbsorb_inv {m : List Byte} {s t : State} (h : execAbsorb m s = .next t) :
    m.length = 64 ∧ t = ((s.transform (words (blockOf m))).countBlock.releaseWork).respond (okResponse []) := by
  unfold execAbsorb at h
  split at h
  · cases h; exact ⟨‹_›, rfl⟩
  · cases h

theorem execFinal_inv {L : BitVec 6} {N : BitVec 8} {tail : List Byte} {s t : State}
    (h : execFinal L N tail s = .next t) :
    tail.length = L.toNat ∧
    ((badOutputSize N = true ∧ t = s.raise .invalidOutputSize) ∨
     (badOutputSize N = false ∧
       t = (finalDigest L tail s).clear.releaseWork.respond
         (okResponse (outputBytes (finalDigest L tail s).H N)))) := by
  unfold execFinal at h
  split at h
  · refine ⟨‹_›, ?_⟩
    cases hb : badOutputSize N <;> simp only [hb, Bool.false_eq_true, if_false, if_true] at h <;> cases h <;> simp
  · cases h

/-! ## Where each meaning goes on, and to what -/

theorem exec_absorb_of_length {m : List Byte} (s : State) (h : m.length = 64) :
    exec (.absorb m) s =
      .next (((s.transform (words (blockOf m))).countBlock.releaseWork).respond (okResponse [])) := by
  simp only [exec, execAbsorb, h, Config.blockBytes, if_true]

theorem exec_final_of_legal {L : BitVec 6} {N : BitVec 8} {tail : List Byte} (s : State)
    (h : tail.length = L.toNat) (hN : 1 ≤ N.toNat ∧ N.toNat ≤ 64) :
    exec (.final L N tail) s = .next ((finalDigest L tail s).clear.releaseWork.respond
      (okResponse (outputBytes (finalDigest L tail s).H N))) := by
  have hb := badOutputSize_eq_false.2 hN
  simp only [exec, execFinal, h, hb, if_true]
  rfl

theorem exec_final_of_bad {L : BitVec 6} {N : BitVec 8} {tail : List Byte} (s : State)
    (h : tail.length = L.toNat) (hN : N = 0 ∨ 64 < N.toNat) :
    exec (.final L N tail) s = .next (s.raise .invalidOutputSize) := by
  have hb := badOutputSize_eq_true.2 hN
  simp only [exec, execFinal, h, hb, if_true]

/-- The response of a successful `FINAL`. -/
theorem okResponse_outputBytes {H : Words} {N : BitVec 8} (h : N.toNat ≤ 64) :
    okResponse (outputBytes H N) = ⟨.ok, N.toNat, outputBytes H N⟩ := by
  simp [okResponse, outputBytes_length h]

theorem okResponse_wf {out : List Byte} (h : out.length ≤ 64) : (okResponse out).Wf := ⟨rfl, h, by simp⟩

theorem errorResponse_wf (e : Status) : (errorResponse e).Wf := ⟨rfl, by simp, by simp⟩

/-! ## Steps and runs -/

/-- What a step that goes on can be: idle, a hardware reset, a reserved word answered, or a command run. -/
theorem step_inv {s t : State} (h : step s = .next t) :
    (s.cmds = [] ∧ t = s) ∨
    (∃ rest during, s.cmds = .hardwareReset during :: rest ∧ t = ({ s with cmds := rest } : State).hardwareReset) ∨
    (∃ cmd din rest, s.cmds = .command cmd din :: rest ∧ decode cmd din = .reserved ∧
      t = ({ s with cmds := rest } : State).illegal) ∨
    (∃ cmd din rest i, s.cmds = .command cmd din :: rest ∧ decode cmd din = .instr i ∧
      exec i { s with cmds := rest } = .next t) := by
  unfold step State.takeEvent at h
  match hc : s.cmds with
  | [] =>
    simp only [hc] at h
    cases h
    exact .inl ⟨rfl, rfl⟩
  | .hardwareReset during :: rest =>
    simp only [hc] at h
    cases h
    exact .inr (.inl ⟨rest, during, rfl, rfl⟩)
  | .command cmd din :: rest =>
    simp only [hc] at h
    match hd : decode cmd din with
    | .instr i =>
      simp only [hd] at h
      exact .inr (.inr (.inr ⟨cmd, din, rest, i, rfl, hd, h⟩))
    | .reserved =>
      simp only [hd] at h
      cases h
      exact .inr (.inr (.inl ⟨cmd, din, rest, rfl, hd, rfl⟩))
    | .payloadLength =>
      simp only [hd] at h
      cases h

/-- A step with an event on the port, as the match of `step` has it. -/
theorem step_of_command {s : State} {cmd : BitVec 16} {din : List Byte} {rest : List PortEvent}
    (h : s.cmds = .command cmd din :: rest) :
    step s = match decode cmd din with
      | .instr i => exec i { s with cmds := rest }
      | .reserved => .next ({ s with cmds := rest } : State).illegal
      | .payloadLength => .refused .payloadLength := by
  cases hd : decode cmd din <;> simp only [step, State.takeEvent, h, hd]

/-- A run whose first step goes on is that step and the rest of the run. -/
theorem run_succ_of_next {k : Nat} {s t : State} (h : step s = .next t) :
    Host.Core.run core (k + 1) s = Host.Core.run core k t := by
  have hc : core.step s = .next t := h
  simp only [Host.Core.run, hc]

end Sys2Proof.Machine
end

