-- ==== Sys2Proof/Laws/PerInstr.lean ====
section
/-! SUPPORT. Statements made once an instruction. -/

namespace Sys2Proof.Laws

/-- Family `PayloadFramed`: the payload the encoder writes has the length the command word announces, exactly when the
command is well-formed (30_encoding.md R65). -/
def PayloadFramed.Statement (i : Instr) : Prop :=
  i.wf = true ↔ (encodePayload i).length = payloadBytes (encodeWord i)

theorem PayloadFramed.init : PayloadFramed.Statement .init := by
  simp [PayloadFramed.Statement, Instr.wf, encodePayload, encodeWord, payloadBytes, opField]

theorem PayloadFramed.absorb (m : List Byte) : PayloadFramed.Statement (.absorb m) := by
  simp [PayloadFramed.Statement, Instr.wf, encodePayload, encodeWord, payloadBytes, opField]

theorem PayloadFramed.final (L : BitVec 6) (N : BitVec 8) (tail : List Byte) :
    PayloadFramed.Statement (.final L N tail) := by
  rw [PayloadFramed.Statement, encodeWord, payloadBytes_final]
  simp [Instr.wf, encodePayload]

end Sys2Proof.Laws
end

