-- ==== Sys2Proof/Machine/Notation.lean ====
section
/-! DEFINITION. The textual notation of commands (30_encoding.md R70) and of the pseudo-commands (R73): one command
a line, read from the line's characters to what the host presents on the command port. What the rules leave open of it
(spaces, an empty operand) is log entry 12. -/

namespace Sys2Proof.Machine

/-- A hex digit, case-insensitive (R70). -/
def hexDigit (c : Char) : Option Nat :=
  let n := c.toNat
  if 48 ≤ n ∧ n ≤ 57 then some (n - 48)
  else if 65 ≤ n ∧ n ≤ 70 then some (n - 55)
  else if 97 ≤ n ∧ n ≤ 102 then some (n - 87)
  else none

/-- A decimal digit. -/
def decDigit (c : Char) : Option Nat :=
  if 48 ≤ c.toNat ∧ c.toNat ≤ 57 then some (c.toNat - 48) else none

/-- A decimal number, most significant digit first, with the value of the digits already read. -/
def decDigits (acc : Nat) : List Char → Option Nat
  | [] => some acc
  | c :: cs =>
    match decDigit c with
    | some d => decDigits (10 * acc + d) cs
    | none => none

/-- A decimal number of at least one digit. -/
def decNumber : List Char → Option Nat
  | [] => none
  | c :: cs => decDigits 0 (c :: cs)

/-- Two hex digits a byte, byte 0 first (R70). -/
def hexBytes : List Char → Option (List Byte)
  | [] => some []
  | [_] => none
  | a :: b :: cs =>
    match hexDigit a, hexDigit b, hexBytes cs with
    | some h, some l, some rest => some (BitVec.ofNat 8 (16 * h + l) :: rest)
    | _, _, _ => none

/-- `0xNNNN`, an arbitrary command word (R70). -/
def hexWord : List Char → Option (BitVec 16)
  | '0' :: 'x' :: cs =>
    match hexBytes cs with
    | some [h, l] => some (h ++ l)
    | _ => none
  | _ => none

/-- The line up to its comment (R70: "A comment starts with `;`"). -/
def withoutComment (line : List Char) : List Char := line.takeWhile (· ≠ ';')

def dropSpaces (cs : List Char) : List Char := cs.dropWhile (· = ' ')

/-- A piece of text without the spaces around it. -/
def trim (cs : List Char) : List Char := (dropSpaces (dropSpaces cs).reverse).reverse

/-- The comma-separated pieces of a text, with the piece being read. -/
def splitCommas (piece : List Char) : List Char → List (List Char)
  | [] => [piece.reverse]
  | c :: cs => if c = ',' then piece.reverse :: splitCommas [] cs else splitCommas (c :: piece) cs

/-- The operands of a line: comma-separated, none when there is no text. -/
def operandsOf (cs : List Char) : List (List Char) :=
  if trim cs = [] then [] else (splitCommas [] cs).map trim

/-- `FINAL L, N, tail` from its two numbers and its tail (R70). -/
def finalLine (L N : List Char) (tail : List Char) : Option Instr :=
  match decNumber L, decNumber N, hexBytes tail with
  | some l, some n, some t =>
    if l < 64 ∧ n < 256 ∧ t.length = l then some (.final (BitVec.ofNat 6 l) (BitVec.ofNat 8 n) t) else none
  | _, _, _ => none

/-- `HASH N, M` from its number and its message (R73). -/
def hashLine (N M : List Char) : Option (List Instr) :=
  match decNumber N, hexBytes M with
  | some n, some m => if n < 256 then some (hashExpansion (BitVec.ofNat 8 n) m) else none
  | _, _ => none

/-- `.word 0xNNNN, payload`: any command word with the payload it announces (R70). -/
def wordLine (w payload : List Char) : Option (List PortEvent) :=
  match hexWord w, hexBytes payload with
  | some cmd, some din => if din.length = payloadBytes cmd then some [.command cmd din] else none
  | _, _ => none

/-- The commands a mnemonic and its operands stand for (R70, R73). -/
def readCommand (mnemonic : List Char) (operands : List (List Char)) : Option (List PortEvent) :=
  if mnemonic = ['I', 'N', 'I', 'T'] ∨ mnemonic = ['R', 'E', 'S', 'T', 'A', 'R', 'T'] then
    match operands with
    | [] => some (present restartExpansion)
    | _ => none
  else if mnemonic = ['A', 'B', 'S', 'O', 'R', 'B'] then
    match operands with
    | [m] => (hexBytes m).bind fun b => if b.length = 64 then some (present [.absorb b]) else none
    | _ => none
  else if mnemonic = ['F', 'I', 'N', 'A', 'L'] then
    match operands with
    | [L, N] => (finalLine L N []).map fun i => present [i]
    | [L, N, tail] => (finalLine L N tail).map fun i => present [i]
    | _ => none
  else if mnemonic = ['.', 'w', 'o', 'r', 'd'] then
    match operands with
    | [w] => wordLine w []
    | [w, payload] => wordLine w payload
    | _ => none
  else if mnemonic = ['H', 'A', 'S', 'H'] then
    match operands with
    | [N] => (hashLine N []).map present
    | [N, M] => (hashLine N M).map present
    | _ => none
  else if mnemonic = ['D', 'I', 'G', 'E', 'S', 'T'] then
    match operands with
    | [] => some (present (digestExpansion []))
    | [M] => (hexBytes M).map fun m => present (digestExpansion m)
    | _ => none
  else none

/-- One line of the notation: none where it is not a line of the notation, no command for an empty line. -/
def readLine (line : List Char) : Option (List PortEvent) :=
  let text := trim (withoutComment line)
  let mnemonic := text.takeWhile (· ≠ ' ')
  if text = [] then some [] else readCommand mnemonic (operandsOf (text.drop mnemonic.length))

end Sys2Proof.Machine
end

