-- ==== Sys2Proof/Tests/Slice0.lean ====
section
/-! SUPPORT. Tests: the words of the spec's encodings, the refusals of `WellFormed`, the spec's own vectors
(95_test_vectors.md and the worked examples of the rules), each of one step or one operation, every expected value
copied from spec/; and for each statement with hypotheses a witness that meets them all. -/

-- One theorem after another: the kernel evaluates them one at a time in any case, and theorems that wait for it
-- each hold a thread's stack.
set_option Elab.async false

namespace Sys2Proof.Tests

open Sys2Proof Sys2Proof.Machine

/-- The bytes `00 .. n-1`, the message `mK` of 95_test_vectors.md. -/
def mK (n : Nat) : List Byte := (List.range n).map (BitVec.ofNat 8)

/-- A state right after reset whose host side presents one transaction. -/
def presenting (cmd : BitVec 16) (din : List Byte) : State := { State.reset with cmds := [.command cmd din] }

def outH : Host.Outcome State Fault Refusal → Option Words
  | .next t => some t.H
  | .fault _ => none
  | .refused _ => none

def outLEN : Host.Outcome State Fault Refusal → Option (BitVec 128)
  | .next t => some t.LEN
  | .fault _ => none
  | .refused _ => none

def outRsps : Host.Outcome State Fault Refusal → Option (List Response)
  | .next t => some t.rsps
  | .fault _ => none
  | .refused _ => none

/-! ## WellFormed -/

theorem test_wf_absorb_of_63_bytes_refused : (Instr.absorb (mK 63)).wf = false := by decide

theorem test_wf_absorb_of_64_bytes : (Instr.absorb (mK 64)).wf = true := by decide

theorem test_wf_final_of_wrong_tail_refused : (Instr.final 3 64 [0x61, 0x62]).wf = false := by decide

theorem test_wf_final : (Instr.final 3 64 [0x61, 0x62, 0x63]).wf = true := by decide

/-! ## Decoding: the words of 30_encoding.md R74 and 95_test_vectors.md section 9, bit by bit -/

theorem test_decode_init : decode 0b0000000000000000 [] = .instr .init := by decide

theorem test_decode_absorb : decode 0b0100000000000000 (mK 64) = .instr (.absorb (mK 64)) := by decide

theorem test_decode_final_3_64 :
    decode 0b1000001101000000 [0x61, 0x62, 0x63] = .instr (.final 3 64 [0x61, 0x62, 0x63]) := by decide

theorem test_decode_final_63_255 : decode 0b1011111111111111 (mK 63) = .instr (.final 63 255 (mK 63)) := by decide

theorem test_decode_final_0_1 : decode 0b1000000000000001 [] = .instr (.final 0 1 []) := by decide

theorem test_decode_reserved_op_11 : decode 0xC040 [] = .reserved := by decide

theorem test_decode_reserved_op_00 : decode 0x0100 [] = .reserved := by decide

theorem test_decode_reserved_op_01 : decode 0x4100 (mK 64) = .reserved := by decide

theorem test_decode_wrong_payload : decode 0x8340 [0x61] = .payloadLength := by decide

theorem test_encode_words :
    [encodeWord .init, encodeWord (.absorb []), encodeWord (.final 0 64 []), encodeWord (.final 31 64 []),
      encodeWord (.final 32 64 []), encodeWord (.final 0 255 [])]
      = [0x0000, 0x4000, 0x8040, 0x9F40, 0xA040, 0x80FF] := by decide

theorem test_table_word_final : decodeTableWord 16 0x8340 = some (.final 3 64 [0, 0, 0]) := by decide

theorem test_table_word_payload :
    decodeTableWord 40 0x6362618340 = some (.final 3 64 [0x61, 0x62, 0x63]) := by decide

theorem test_table_word_reserved : decodeTableWord 16 0xC000 = none := by decide

/-! ## Primitives (95_test_vectors.md 8.2) -/

theorem test_byte : unbe64 0x0123456789ABCDEF = [0x01, 0x23, 0x45, 0x67, 0x89, 0xAB, 0xCD, 0xEF] := by decide

theorem test_swap32 : swap32 0x0123456789ABCDEF = 0x89ABCDEF01234567 := by decide

theorem test_rotr64 : rotr64 0x0123456789ABCDEF 8 = 0xEF0123456789ABCD := by decide

theorem test_be128 : be128 (2 ^ 64 + 8) = [0, 0, 0, 0, 0, 0, 0, 1, 0, 0, 0, 0, 0, 0, 0, 8] := by decide +kernel

theorem test_words : words (blockOf (mK 64)) = #v[0x0001020304050607, 0x08090A0B0C0D0E0F, 0x1011121314151617,
    0x18191A1B1C1D1E1F, 0x2021222324252627, 0x28292A2B2C2D2E2F, 0x3031323334353637, 0x38393A3B3C3D3E3F] := by
  decide +kernel

theorem test_bytes : bytes (words (blockOf (mK 64))) = blockOf (mK 64) := by decide +kernel

/-! ## The constants (40_constant_tables.md) -/

/-- R88 against R87. -/
theorem test_sbox_from_mini_boxes : ∀ u : Byte, entry SBOX u = sboxFromMini u := by decide +kernel

/-- R90 against R89. -/
theorem test_base_table_from_sbox : ∀ b : Byte, entry T0 b = baseFromSbox b := by decide +kernel

/-- R91. -/
theorem test_round_constants_from_sbox : ∀ r : Fin 11, roundConstants.get r = rcFromSbox r := by decide +kernel

/-- R102: word `(i - j) mod 8`, lane `j`. -/
theorem test_gather : ∀ (i : Fin 8) (j : Fin 4),
    (gatherW.get i).second.get j = ⟨i - Fin.castLE (by omega) j, Fin.castLE (by omega) j⟩ ∧
    (gatherW.get i).first.get j = ⟨i - (4 + Fin.castLE (by omega) j), 4 + Fin.castLE (by omega) j⟩ := by
  decide +kernel

/-- R101: each row takes one byte from each source word, and no two rows are the same. -/
theorem test_gather_admissible : ∀ i : Fin 8,
    (∀ w : Fin 8, w ∈ (gatherW.get i).first.toList.map GatherPos.word ++ (gatherW.get i).second.toList.map GatherPos.word) ∧
    ∀ i' : Fin 8, i ≠ i' → gatherW.get i ≠ gatherW.get i' := by decide +kernel

/-- 95_test_vectors.md 8.1. -/
theorem test_lookup : [lookup paramsW 0 0x80, lookup paramsW 1 0x80, lookup paramsW 2 0xFF, lookup paramsW 3 0x61]
    = [0x97976697CCF1335B, 0x5B97976697CCF133, 0x11C28686228644A4, 0x331E770F0F3C0F78] := by decide +kernel

/-! ## The internal operations (41 R110, 42 R116, 43 R132) -/

/-- R110 example 4. -/
theorem test_rpass : rpass paramsW (words (blockOf (mK 64)))
    (Vector.ofFn fun i => 0x1111111111111111 * BitVec.ofNat 64 (i.val + 1)) =
    #v[0x6D3FE82AFB809E00, 0x48076114D30957C9, 0x74E4C5C186A2369C, 0xBEEC9567A0D58994,
      0x7E255EF52AEFE6ED, 0xB7541AB9A74FB4D3, 0x44049EBB2F7233AA, 0xB7DC063FF442F193] := by decide +kernel

/-- 95_test_vectors.md 8.3. -/
theorem test_kstep : kstep paramsW (words (blockOf (mK 64))) 5 =
    #v[0x6959CEDE7561C5CB, 0x6A254336F12B75EB, 0x47D7F6F2B59105AF, 0xFAA8D123E491CDD0,
      0x2B700BA07FBAB3B8, 0xD1327CDFC129D2B5, 0x3373E9CC580544DD, 0x3F548EB77CCA791B] := by decide +kernel

/-- R132 example 3: a transform from a digest that is not zero. -/
theorem test_xform : xform paramsW
    #v[0x4E2448A4C6F486BB, 0x16B6562C73B4020B, 0xF3043E3A731BCE72, 0x1AE1B303D97E6D4C,
      0x7181EEBDB6C57E27, 0x7D0E34957114CBD6, 0xC797FC9D95D8B582, 0xD225292076D4EEF5] (words (blockOf (mK 64))) =
    #v[0x21C2028FBFE3EAD9, 0xA5D60C4EE97B0E5A, 0x3506A5258A354B93, 0x2BAD62E68BF03EDC,
      0x78EBCEA53F1A8DE1, 0x71885FEBA2270157, 0x95D4B4D894DA4435, 0xFBDFF0453889E1A3] := by decide +kernel

/-! ## Padding (95_test_vectors.md section 5) -/

/-- PV3, the largest one-block tail. -/
theorem test_pad_31 : padBlocks (mK 31) 248 =
    [blockOf (mK 31 ++ [0x80] ++ List.replicate 31 0 ++ [0xF8])] := by decide +kernel

/-- PV4, the smallest two-block tail. -/
theorem test_pad_32 : padBlocks (mK 32) 256 =
    [blockOf (mK 32 ++ [0x80]), blockOf (List.replicate 62 0 ++ [0x01, 0x00])] := by decide +kernel

/-- PV5, the largest tail. -/
theorem test_pad_63 : padBlocks (mK 63) 504 =
    [blockOf (mK 63 ++ [0x80]), blockOf (List.replicate 62 0 ++ [0x01, 0xF8])] := by decide +kernel

/-- PV8, a length above 2^64. -/
theorem test_pad_high_length : padBlocks [0xAA] (totalBits (2 ^ 64) 1) =
    [blockOf ([0xAA, 0x80] ++ List.replicate 53 0 ++ [1, 0, 0, 0, 0, 0, 0, 0, 8])] := by decide +kernel

/-! ## One step of each command -/

/-- 8.3 and program P3: `H` after `ABSORB` of m64. -/
theorem test_absorb_H : outH (step (presenting 0x4000 (mK 64))) =
    some #v[0xB0FB3B38309BF52C, 0xDADDD0620680E0DF, 0x55CC450F48B1959F, 0x9ECEF5D23CA08704,
      0x50D4C91FE27600B2, 0x092AD43888B34250, 0xA5246B1A92AFA299, 0xAC3C33B9E9D1761F] := by decide +kernel

/-- 8.4: the carry into the high half. -/
theorem test_absorb_LEN_carry :
    outLEN (step { presenting 0x4000 (mK 64) with LEN := 0xFFFFFFFFFFFFFE00 }) = some (2 ^ 64) := by decide +kernel

/-- V3 and program P2: the digest of "abc". -/
theorem test_final_abc : outRsps (step (presenting 0x8340 [0x61, 0x62, 0x63])) =
    some [⟨.ok, 64, (bytes #v[0x4E2448A4C6F486BB, 0x16B6562C73B4020B, 0xF3043E3A731BCE72, 0x1AE1B303D97E6D4C,
      0x7181EEBDB6C57E27, 0x7D0E34957114CBD6, 0xC797FC9D95D8B582, 0xD225292076D4EEF5]).toList⟩] := by decide +kernel

/-- Program P4: the digest of m63, two padding blocks (an output of 8 bytes). -/
theorem test_final_m63 : outRsps (step (presenting 0xBF08 (mK 63))) =
    some [⟨.ok, 8, [0x37, 0xBF, 0x32, 0x1F, 0x66, 0xAC, 0xE8, 0x27]⟩] := by decide +kernel

/-- Program P3, command 3: `FINAL 0, 20` from the state its `ABSORB` left. -/
theorem test_final_m64 : outRsps (step { presenting 0x8014 [] with
      H := #v[0xB0FB3B38309BF52C, 0xDADDD0620680E0DF, 0x55CC450F48B1959F, 0x9ECEF5D23CA08704,
        0x50D4C91FE27600B2, 0x092AD43888B34250, 0xA5246B1A92AFA299, 0xAC3C33B9E9D1761F],
      LEN := 512 }) =
    some [⟨.ok, 20, [0x5C, 0x3C, 0x6F, 0x52, 0x4C, 0x8A, 0xE1, 0xE7, 0xA4, 0xF7, 0x6B, 0x84, 0x97, 0x7B, 0x15, 0x60,
      0xE7, 0x8E, 0xB5, 0x68]⟩] := by decide +kernel

/-- Section 10: `N = 65` fails and returns nothing. -/
theorem test_final_65 : outRsps (step (presenting 0x8341 [0x61, 0x62, 0x63])) =
    some [⟨.invalidOutputSize, 0, []⟩] := by decide +kernel

/-- Section 8.4: a failing `FINAL` leaves `LEN`. -/
theorem test_final_0_keeps_LEN : outLEN (step { presenting 0x8300 [0, 0, 0] with LEN := 512 }) = some 512 := by
  decide +kernel

/-- Section 8.4, last row. -/
theorem test_init_LEN : outLEN (step { presenting 0x0000 [] with LEN := 512 }) = some 0 := by decide +kernel

/-- Program P7: a reserved word with `op = 01` takes 64 payload bytes and changes nothing. -/
theorem test_reserved : outRsps (step { presenting 0x4100 (mK 64) with LEN := 512 }) =
    some [⟨.illegalCmd, 0, []⟩] := by decide +kernel

/-- Section 6: the digest of "abc" under Z, which tests the plumbing without tables. -/
theorem test_final_abc_Z : outRsps (step { presenting 0x8308 [0x61, 0x62, 0x63] with par := paramsZ }) =
    some [⟨.ok, 8, [0xAB, 0x4F, 0xDC, 0x87, 0xAD, 0x5A, 0x83, 0x33]⟩] := by decide +kernel

/-- R191: a reset during an `ABSORB` abandons it, with no response. -/
theorem test_reset_during_absorb :
    outH (step { State.reset with H := Vector.replicate 8 1, cmds := [.hardwareReset (some (0x4000, mK 64))] })
      = some zeroWords ∧
    outRsps (step { State.reset with cmds := [.hardwareReset (some (0x4000, mK 64))] }) = some [] := by
  decide +kernel

/-- The first step after reset runs a table word's command. -/
theorem test_fetch_word : outRsps (step (State.reset.withFetchWord 16 0x8000)) =
    some [⟨.invalidOutputSize, 0, []⟩] := by decide +kernel

/-! ## The notation (30_encoding.md R70, R73) -/

theorem test_line_final : readLine "FINAL 3, 64, 616263 ; abc".toList =
    some [.command 0x8340 [0x61, 0x62, 0x63]] := by decide +kernel

theorem test_line_word : readLine ".word 0xC000".toList = some [.command 0xC000 []] := by decide +kernel

theorem test_line_hash : readLine "HASH 20, 6162".toList =
    some [.command 0x0000 [], .command 0x8214 [0x61, 0x62]] := by decide +kernel

theorem test_line_final_without_tail : readLine "FINAL 3, 64".toList = none := by decide +kernel

/-! ## Witnesses: for each statement with hypotheses, values that meet them, at the ends of their ranges -/

theorem witness_RotationFormula : (0 : Nat) < 64 ∧ (63 : Nat) < 64 := by decide

theorem witness_WordsAndBytesAreInverse : ∃ H : Words, H[0] = 0x19FA61D75522A466 :=
  ⟨Vector.replicate 8 0x19FA61D75522A466, rfl⟩

theorem witness_DecodeOfEncode : Instr.init.wf = true ∧ (Instr.absorb (mK 64)).wf = true ∧
    (Instr.final 0 0 []).wf = true ∧ (Instr.final 63 255 (mK 63)).wf = true := by decide

theorem witness_EncodeOfDecode : decode 0x0000 [] = .instr .init ∧
    decode 0x4000 (mK 64) = .instr (.absorb (mK 64)) ∧ decode 0x8000 [] = .instr (.final 0 0 []) ∧
    decode 0xBFFF (mK 63) = .instr (.final 63 255 (mK 63)) := by decide

theorem witness_OpcodeMapIsDisjointAndCounted : ([] : List Byte).length = payloadBytes 0x0000 ∧
    (mK 64).length = payloadBytes 0x4000 ∧ (mK 63).length = payloadBytes 0xBFFF ∧
    ((0xBFFF : BitVec 16) &&& 0xC000 = 0x8000) ∧
    [0x0001, 0x3FFF, 0xC000, 0xFFFF].all (fun w => payloadBytes w == 0 && !finalRow.holds w && !absorbRow.holds w) ∧
    (mK 64).length = payloadBytes 0x4001 ∧ (mK 64).length = payloadBytes 0x7FFF := by decide

theorem witness_ReservedWordsAnswerIllegalCommand :
    (presenting 0xC000 []).cmds = [.command 0xC000 []] ∧ decode 0xC000 [] = .reserved ∧
    decode 0x0001 [] = .reserved ∧ decode 0x7FFF (mK 64) = .reserved := by decide

theorem witness_EveryFinalWordDecodes : ([] : List Byte).length = (0 : BitVec 6).toNat ∧
    (mK 63).length = (63 : BitVec 6).toNat ∧ (64 < (65 : BitVec 8).toNat) ∧ ¬64 < (64 : BitVec 8).toNat := by decide

theorem witness_StepRunsDecodedCommand :
    (presenting 0x4000 (mK 64)).cmds = [.command 0x4000 (mK 64)] ∧
    decode 0x4000 (mK 64) = .instr (.absorb (mK 64)) ∧ State.reset.cmds = [] := by decide

theorem witness_StepRefusesOnlyMisframedPayload :
    step (presenting 0x8340 [0x61]) = .refused .payloadLength ∧ [(0x61 : Byte)].length ≠ payloadBytes 0x8340 :=
  ⟨rfl, by decide⟩

theorem witness_RoundPassFormula : paramsW.GATHER = gatherW := rfl

/-- Two sources that differ in one byte alone, lanes 0, 3 and 4, 7 (the ends of the two groups), with an output word
that is the byte's own and the two beside it. -/
theorem witness_SourceByteFeedsOneWord :
    [((0 : Fin 8), (0xFF00000000000000 : Word)), (3, 0x000000FF00000000), (4, 0x00000000FF000000), (7, 0xFF)].all
      (fun ld => decide ((∀ w l : Fin 8, (w, l) ≠ (0, ld.1) →
          byte zeroWords[w] l = byte (#v[ld.2, 0, 0, 0, 0, 0, 0, 0] : Words)[w] l) ∧
        byte zeroWords[(0 : Fin 8)] ld.1 ≠ byte (#v[ld.2, 0, 0, 0, 0, 0, 0, 0] : Words)[(0 : Fin 8)] ld.1 ∧
        ld.1 + 1 ≠ 0 + ld.1 ∧ ld.1 - 1 ≠ 0 + ld.1 ∧ ld.1 = 0 + ld.1)) = true ∧
    paramsW.GATHER = gatherW := by decide +kernel

theorem witness_RoundPassWordRotation : ∀ i : Fin 8,
    (#v[1, 2, 3, 4, 5, 6, 7, 0] : Words)[i] = (#v[0, 1, 2, 3, 4, 5, 6, 7] : Words)[i + 1] ∧
    (#v[9, 0, 0, 0, 0, 0, 0, 8] : Words)[i] = (#v[8, 9, 0, 0, 0, 0, 0, 0] : Words)[i + 1] := by decide +kernel

theorem witness_RoundKeysIgnoreTheBlock :
    (0 : Nat) < 10 ∧ (1 : Fin 11).val = 0 + 1 ∧ (9 : Nat) < 10 ∧ (10 : Fin 11).val = 9 + 1 := by decide

/-- The sequences of the hardware's own rounds, from the zero digest and a block of the spec. -/
theorem witness_TransformIsTenRoundsAndFeedForward : ∃ K S : Nat → Words,
    K 0 = zeroWords ∧ (∀ i : Fin 8, (S 0)[i] = (words (blockOf (mK 64)))[i] ^^^ (K 0)[i]) ∧
    ∀ r : Fin 11, r ≠ 0 →
      K r.val = kstep paramsW (K (r.val - 1)) r ∧ S r.val = rpass paramsW (S (r.val - 1)) (K r.val) := by
  refine ⟨fun n => ((Work.load zeroWords (words (blockOf (mK 64)))).run paramsW n).K,
    fun n => ((Work.load zeroWords (words (blockOf (mK 64)))).run paramsW n).S, rfl, fun i => ?_, fun r hr => ?_⟩
  · simp only [Work.run_zero, Work.load_S, Work.load_K, Fin.getElem_fin, xorWords_getElem]
  · obtain ⟨n, hn⟩ := r
    match n, hn, hr with
    | 0, _, hr => exact absurd rfl hr
    | n + 1, hn, _ =>
      simp only [Nat.add_sub_cancel, Work.run_succ, Work.round_S, Work.round_K,
        Work.run_load_RND paramsW zeroWords _ (show n ≤ 10 by omega), and_true]
      congr 1
      ext
      simp [Fin.val_add]
      omega

theorem witness_InPlaceTransformAgrees : ∃ (H B K S D : Words) (w : Work), H ≠ B ∧ K = H ∧ S = xorWords B K ∧ D = S ∧
    w = Work.run paramsW 10 ⟨B, K, S, 0⟩ :=
  ⟨zeroWords, Vector.replicate 8 1, _, _, _, _, by decide, rfl, rfl, rfl, rfl⟩

theorem witness_AbsorbCompletes : (mK 64).length = 64 ∧
    ∀ n : Fin 64, (mK 64)[n.val]? = some (blockOf (mK 64))[n] := by decide +kernel

/-- One length counter on each side of the carry. -/
theorem witness_AbsorbCarriesBetweenLengthHalves : (mK 64).length = 64 ∧
    ({ State.reset with LEN := 0xFFFFFFFFFFFFFE00 } : State).LEN_LO.toNat + 512 ≥ 2 ^ 64 ∧
    ¬({ State.reset with LEN := 0xFFFFFFFFFFFFFC00 } : State).LEN_LO.toNat + 512 ≥ 2 ^ 64 := by decide +kernel

theorem witness_TotalLengthInBits : 512 ∣ (0 : BitVec 128).toNat ∧
    512 ∣ (0xFFFFFFFFFFFFFFFFFFFFFFFFFFFFFE00 : BitVec 128).toNat ∧
    8 * 0 < 2 ^ 128 ∧ 8 * (2 ^ 125 - 1) < 2 ^ 128 := by decide

theorem witness_PaddingLeaves32BytesFree : (mK 0).length ≤ 63 ∧ (mK 63).length ≤ 63 := by decide

/-- Both clauses of the layout at both ends: tails of 0 and 31, of 32 and 63 bytes. -/
theorem witness_PaddingBlockLayout : (mK 0).length ≤ 31 ∧ (mK 31).length ≤ 31 ∧
    32 ≤ (mK 32).length ∧ 32 ≤ (mK 63).length ∧ (mK 63).length ≤ 63 := by decide

theorem witness_LengthFieldWords : (mK 3).length ≤ 63 ∧ (mK 63).length ≤ 63 ∧
    totalBits 0 3 = 24 := by decide

/-- One and two blocks at both ends, the least and the largest legal `N`. -/
theorem witness_FinalCompletes : (mK 0).length = (0 : BitVec 6).toNat ∧ (mK 31).length = (31 : BitVec 6).toNat ∧
    (mK 32).length = (32 : BitVec 6).toNat ∧ (mK 63).length = (63 : BitVec 6).toNat ∧
    1 ≤ (1 : BitVec 8).toNat ∧ (64 : BitVec 8).toNat ≤ 64 := by decide

/-- The sizes where the clauses meet: 0 and 65 fail, 1 and 64 do not. -/
theorem witness_InvalidOutputSizeIsPrecise : (mK 3).length = (3 : BitVec 6).toNat ∧
    64 < (65 : BitVec 8).toNat ∧ ¬((1 : BitVec 8) = 0 ∨ 64 < (1 : BitVec 8).toNat) ∧
    ¬((64 : BitVec 8) = 0 ∨ 64 < (64 : BitVec 8).toNat) ∧
    (∃ t, exec .init State.reset = .next t) ∧ ∃ t, exec (.absorb (mK 64)) State.reset = .next t :=
  ⟨by decide, by decide, by decide, by decide, ⟨_, rfl⟩, ⟨_, exec_absorb_of_length _ (by decide)⟩⟩

theorem witness_TruncationIsAPrefix : (mK 3).length = (3 : BitVec 6).toNat ∧ 1 ≤ (1 : BitVec 8).toNat ∧
    (1 : BitVec 8).toNat ≤ (64 : BitVec 8).toNat ∧ (64 : BitVec 8).toNat ≤ 64 := by decide

theorem witness_InitCompletes : State.reset.Fresh := ⟨rfl, rfl, rfl⟩

theorem witness_DigestIsDeliveredOnce : (mK 63).length = (63 : BitVec 6).toNat ∧ 1 ≤ (1 : BitVec 8).toNat ∧
    (1 : BitVec 8).toNat ≤ 64 ∧ 1 ≤ (64 : BitVec 8).toNat ∧ (64 : BitVec 8).toNat ≤ 64 := by decide

/-- The empty message, and one of two blocks and a byte with another command behind it. -/
theorem witness_HashOfWholeMessage : 1 ≤ (64 : BitVec 8).toNat ∧ (64 : BitVec 8).toNat ≤ 64 ∧
    8 * (mK 0).length < 2 ^ 128 ∧ 8 * (mK 129).length < 2 ^ 128 ∧
    ({ State.reset with cmds := present (hashExpansion 64 (mK 0)) } : State).cmds =
      present (hashExpansion 64 (mK 0)) ++ [] ∧
    ({ State.reset with cmds := present (hashExpansion 64 (mK 129)) ++ [.command 0 []] } : State).cmds =
      present (hashExpansion 64 (mK 129)) ++ [.command 0 []] := by decide +kernel

theorem witness_ThreeWaysToTheFreshState :
    ({ State.reset with cmds := [.hardwareReset none] } : State).cmds = [.hardwareReset none] ∧
    ({ State.reset with cmds := [.hardwareReset (some (0x4000, mK 64))] } : State).cmds =
      [.hardwareReset (some (0x4000, mK 64))] ∧
    (∃ t, exec .init State.reset = .next t) ∧
    (∃ t, exec (.final 0 1 []) State.reset = .next t) ∧ ∃ t, exec (.final 63 64 (mK 63)) State.reset = .next t :=
  ⟨rfl, rfl, ⟨_, rfl⟩, ⟨_, exec_final_of_legal _ rfl (by decide)⟩, ⟨_, exec_final_of_legal _ (by decide) (by decide)⟩⟩

/-- A good state that a step leaves. -/
theorem witness_StepKeepsInvariant : (presenting 0x4000 (mK 64)).Inv ∧
    ∃ t, step (presenting 0x4000 (mK 64)) = .next t :=
  ⟨⟨by decide, rfl, rfl, by simp [presenting, State.reset]⟩, ⟨_, exec_absorb_of_length _ (by decide)⟩⟩

theorem witness_ConstantsAreNeverWritten : ∃ t, step (presenting 0x0000 []) = .next t := ⟨_, rfl⟩

/-- A step for each clause: `ABSORB`, `FINAL` with the least and the largest legal `N` and with 0 and 65, `INIT`, a
hardware reset, a reserved word, an idle step. -/
theorem witness_DigestIsWrittenOnlyByItsCommands :
    (∃ t, step (presenting 0x4000 (mK 64)) = .next t) ∧
    (∃ t, step (presenting 0x8001 []) = .next t) ∧ (∃ t, step (presenting 0xBF40 (mK 63)) = .next t) ∧
    (∃ t, step (presenting 0x8000 []) = .next t) ∧ (∃ t, step (presenting 0x8041 []) = .next t) ∧
    (∃ t, step (presenting 0x0000 []) = .next t) ∧
    (∃ t, step { State.reset with cmds := [.hardwareReset none] } = .next t) ∧
    (decode 0xC000 [] = .reserved ∧ ∃ t, step (presenting 0xC000 []) = .next t) ∧
    (State.reset.cmds = [] ∧ ∃ t, step State.reset = .next t) :=
  ⟨⟨_, exec_absorb_of_length _ (by decide)⟩, ⟨_, exec_final_of_legal (L := 0) (N := 1) _ rfl (by decide)⟩,
    ⟨_, exec_final_of_legal (L := 63) (N := 64) _ (by decide) (by decide)⟩, ⟨_, rfl⟩, ⟨_, rfl⟩, ⟨_, rfl⟩, ⟨_, rfl⟩,
    ⟨by decide, ⟨_, rfl⟩⟩, ⟨rfl, ⟨_, rfl⟩⟩⟩

theorem witness_OneResponsePerCommand :
    (presenting 0x8041 []).cmds = [.command 0x8041 []] ∧ (∃ t, step (presenting 0x8041 []) = .next t) ∧
    (presenting 0x8040 []).cmds = [.command 0x8040 []] ∧ ∃ t, step (presenting 0x8040 []) = .next t :=
  ⟨rfl, ⟨_, rfl⟩, rfl, ⟨_, exec_final_of_legal (L := 0) (N := 64) _ rfl (by decide)⟩⟩

/-- Two different states that agree on what a command can depend on. -/
theorem witness_OutcomesDependOnInputsAlone :
    ({ presenting 0x0000 [] with BUF := blockOf (mK 64), draws := 7 } : State).SameInputs (presenting 0x0000 []) ∧
    ({ presenting 0x0000 [] with BUF := blockOf (mK 64), draws := 7 } : State) ≠ presenting 0x0000 [] :=
  ⟨⟨rfl, rfl, rfl, rfl⟩, fun h => absurd (congrArg State.draws h) (by decide)⟩

theorem witness_FramedRunsNeverStop :
    (presenting 0x4100 (mK 64)).framed = true ∧ State.reset.framed = true ∧
    ({ State.reset with cmds := present (hashExpansion 64 (mK 65)) } : State).framed = true := by decide +kernel

end Sys2Proof.Tests
end

section
/-! PROOFS. Byte lanes, rotations and packing (00_scope.md R8 to R12): `BigEndianPacking`, `ByteLanesAreBitSlices`,
`RotationFormula`, `HalfSwapLaws`. -/

namespace Sys2Proof.Machine

/-! ## Lanes as arithmetic -/

theorem byte_toNat (w : Word) (j : Fin 8) : (byte w j).toNat = w.toNat / 2 ^ (56 - 8 * j.val) % 256 := by
  rw [byte, BitVec.extractLsb'_toNat, Nat.shiftRight_eq_div_pow]

/-- Lane `j` of word `i` of a block is message byte `8i + j` (R8, R41). -/
theorem byte_words (m : Block) (i j : Fin 8) : byte (words m)[i] j = m[8 * i.val + j.val] := by
  rw [Fin.getElem_fin, words_getElem, byte_be64]

/-! ## Packing as arithmetic -/

/-- A byte put below a bit vector: one step of Horner's rule in base 256. -/
theorem toNat_append_byte {n : Nat} (x : BitVec n) (y : Byte) : (x ++ y).toNat = x.toNat * 2 ^ 8 + y.toNat := by
  rw [BitVec.toNat_append, ← Nat.shiftLeft_add_eq_or_of_lt y.isLt, Nat.shiftLeft_eq]

theorem be64_toNat (b : Fin 8 → Byte) : (be64 b).toNat =
    (b 0).toNat * 2 ^ 56 + (b 1).toNat * 2 ^ 48 + (b 2).toNat * 2 ^ 40 + (b 3).toNat * 2 ^ 32
      + (b 4).toNat * 2 ^ 24 + (b 5).toNat * 2 ^ 16 + (b 6).toNat * 2 ^ 8 + (b 7).toNat := by
  simp only [be64, toNat_append_byte]
  ring

theorem unbe64_be64 (b : Fin 8 → Byte) : unbe64 (be64 b) = List.ofFn b := by
  rw [unbe64_eq_ofFn, funext (byte_be64 b)]

theorem be128_eq_ofFn (v : BitVec 128) :
    be128 v = List.ofFn fun n : Fin 16 => v.extractLsb' (120 - 8 * n.val) 8 := by
  refine List.ext_getElem (by simp) fun n hn _ => ?_
  rw [List.getElem_ofFn, ← be128_getD v hn, List.getD_eq_getElem]

/-! ## Rotation by whole bytes -/

/-- A right rotation by `k` bytes moves every lane `k` places on: lane `j` comes from lane `j - k`, or from
`j + 8 - k` where that wraps (R10). -/
theorem byte_rotr64 (w : Word) (k j : Fin 8) : byte (rotr64 w (8 * k.val)) j = byte w (j - k) := by
  ext i hi
  rw [byte_getElem _ _ _ hi, byte_getElem _ _ _ hi, rotr64, BitVec.getLsbD_rotateRight,
    Nat.mod_eq_of_lt (by omega : 8 * k.val < 64)]
  rcases le_or_gt k j with h | h
  · have hlow : 56 - 8 * j.val + i < 64 - 8 * k.val := by omega
    have hsrc : 8 * k.val + (56 - 8 * j.val + i) = 56 - 8 * (j.val - k.val) + i := by omega
    rw [decide_eq_true hlow, cond_true, hsrc, Fin.sub_val_of_le h]
  · have hhigh : ¬56 - 8 * j.val + i < 64 - 8 * k.val := by omega
    have hsrc : 56 - 8 * j.val + i - (64 - 8 * k.val) = 56 - 8 * (8 + j.val - k.val) + i := by omega
    rw [decide_eq_false hhigh, cond_false, decide_eq_true (by omega), Bool.true_and, hsrc,
      Fin.coe_sub_iff_lt.mpr h]

theorem rotr64_eq_or {n : Nat} (w : Word) (h : n < 64) : rotr64 w n = (w >>> n) ||| (w <<< (64 - n)) := by
  rw [rotr64, BitVec.rotateRight_def, Nat.mod_eq_of_lt h]

theorem rotr64_zero (w : Word) : rotr64 w 0 = w := word_ext_lanes fun j => by
  simpa using byte_rotr64 w 0 j

/-! ## The half swap -/

/-- The half swap is the rotation by four bytes, so it moves every lane four places on (R11). -/
theorem byte_swap32 (w : Word) (j : Fin 8) : byte (swap32 w) j = byte w (j - 4) := byte_rotr64 w 4 j

@[simp] theorem swap32_swap32 (w : Word) : swap32 (swap32 w) = w := word_ext_lanes fun j => by
  rw [byte_swap32, byte_swap32, sub_sub, (by decide : (4 + 4 : Fin 8) = 0), sub_zero]

theorem swap32_eq_append (w : Word) : swap32 w = w.extractLsb' 0 32 ++ w.extractLsb' 32 32 := by
  ext i hi
  rw [swap32, rotr64, BitVec.getElem_rotateRight, BitVec.getElem_append]
  split
  · rw [BitVec.getElem_extractLsb', BitVec.getLsbD_eq_getElem]
  · rw [BitVec.getElem_extractLsb', Nat.zero_add, BitVec.getLsbD_eq_getElem]

/-! ## The statements -/

/-- Settles O4 (R12): Horner's rule for the packing, the lanes of a packed word for the inverse. -/
theorem bigEndianPacking : Obligations.BigEndianPacking :=
  ⟨be64_toNat, unbe64_be64, fun w => ⟨unbe64_eq_ofFn w, be64_byte w⟩, be128_eq_ofFn⟩

/-- Settles O1 (R8). -/
theorem byteLanesAreBitSlices : Obligations.ByteLanesAreBitSlices := ⟨byte_toNat, byte_words⟩

/-- Settles O2 (R10). -/
theorem rotationFormula : Obligations.RotationFormula :=
  ⟨fun w _ h => rotr64_eq_or w h, rotr64_zero, byte_rotr64⟩

/-- Settles O3 (R11). -/
theorem halfSwapLaws : Obligations.HalfSwapLaws :=
  ⟨fun _ => rfl, swap32_eq_append, swap32_swap32, swap32_xor⟩

end Sys2Proof.Machine
end

section
/-! PROOFS. The state across a step (10_state.md): `StepKeepsInvariant`, `DigestIsWrittenOnlyByItsCommands`. -/

namespace Sys2Proof.Machine

/-! ## The invariant, one lemma an operation -/

/-- The message length wraps at `2^128`, itself a multiple of 512, so one block more keeps it a multiple (R25, R126). -/
theorem dvd_toNat_add_blockBits {n : BitVec 128} (h : 512 ∣ n.toNat) : 512 ∣ (n + Config.blockBits).toNat := by
  have hwrap : 512 ∣ 2 ^ 128 := by decide
  rw [BitVec.toNat_add]
  exact (Nat.dvd_mod_iff hwrap).mpr (Nat.dvd_add h (dvd_refl 512))

variable {s t : State}

theorem State.Inv.withCmds (hi : s.Inv) (rest : List PortEvent) : ({ s with cmds := rest } : State).Inv :=
  ⟨hi.LEN, hi.BUF, hi.par, hi.rsps⟩

theorem State.Inv.respond (hi : s.Inv) {r : Response} (hr : r.Wf) : (s.respond r).Inv where
  LEN := hi.LEN
  BUF := hi.BUF
  par := hi.par
  rsps := by
    rw [State.respond_rsps, List.forall_mem_append, List.forall_mem_singleton]
    exact ⟨hi.rsps, hr⟩

theorem State.Inv.raise (hi : s.Inv) (e : Status) : (s.raise e).Inv := hi.respond (errorResponse_wf e)

theorem State.Inv.releaseWork (hi : s.Inv) : s.releaseWork.Inv := ⟨hi.LEN, hi.BUF, hi.par, hi.rsps⟩

theorem State.Inv.transform (hi : s.Inv) (B : Words) : (s.transform B).Inv := ⟨hi.LEN, hi.BUF, hi.par, hi.rsps⟩

theorem State.Inv.countBlock (hi : s.Inv) : s.countBlock.Inv where
  LEN := by
    rw [State.countBlock_LEN]
    exact dvd_toNat_add_blockBits hi.LEN
  BUF := by rw [State.countBlock_BUF, hi.BUF]
  par := by rw [State.countBlock_par, hi.par]
  rsps := by rw [State.countBlock_rsps]; exact hi.rsps

/-- Clearing restores what the invariant says of `LEN` and `BUF`, whatever `FINAL` has staged in them (R149). -/
theorem State.clear_inv (hp : s.par = paramsW) (hr : ∀ r ∈ s.rsps, r.Wf) : s.clear.Inv :=
  ⟨dvd_zero 512, rfl, hp, hr⟩

theorem State.Inv.clear (hi : s.Inv) : s.clear.Inv := State.clear_inv hi.par hi.rsps

theorem State.Inv.clear_finalDigest (hi : s.Inv) (L : BitVec 6) (tail : List Byte) :
    (finalDigest L tail s).clear.Inv :=
  State.clear_inv (by rw [finalDigest_par, hi.par]) (by rw [finalDigest_rsps]; exact hi.rsps)

/-- A command that completes keeps the invariant. -/
theorem exec_keeps_inv {i : Instr} (hi : s.Inv) (h : exec i s = .next t) : t.Inv := by
  cases i with
  | init =>
    obtain rfl := execInit_inv h
    exact hi.clear.respond (okResponse_wf (Nat.zero_le 64))
  | absorb m =>
    obtain ⟨-, rfl⟩ := execAbsorb_inv h
    exact (hi.transform _).countBlock.releaseWork.respond (okResponse_wf (Nat.zero_le 64))
  | final L N tail =>
    obtain ⟨-, ⟨-, rfl⟩ | ⟨hN, rfl⟩⟩ := execFinal_inv h
    · exact hi.raise .invalidOutputSize
    · obtain ⟨-, hmax⟩ := badOutputSize_eq_false.mp hN
      have hout := (outputBytes_length (H := (finalDigest L tail s).H) hmax).trans_le hmax
      exact (hi.clear_finalDigest L tail).releaseWork.respond (okResponse_wf hout)

/-! ## The command words with their payloads -/

theorem decode_initWord {din : List Byte} (h : din.length = payloadBytes 0x0000) :
    decode 0x0000 din = .instr .init := by
  rw [decode, if_neg (not_not_intro h), if_pos ((initRow_holds_iff _).mpr rfl)]

theorem decode_absorbWord {m : List Byte} (h : m.length = payloadBytes 0x4000) :
    decode 0x4000 m = .instr (.absorb m) := by
  have hinit : ¬initRow.holds 0x4000 = true := by decide
  rw [decode, if_neg (not_not_intro h), if_neg hinit, if_pos ((absorbRow_holds_iff _).mpr rfl)]

/-- A word with `op = 10` is in the row `FINAL` and, its `op` field being neither 00 nor 01, in no other (R68). -/
theorem decode_finalWord {L : BitVec 6} {N : BitVec 8} {tail : List Byte}
    (h : tail.length = payloadBytes ((0b10 : BitVec 2) ++ L ++ N)) :
    decode ((0b10 : BitVec 2) ++ L ++ N) tail = .instr (.final L N tail) := by
  have hop := opField_final L N
  have hne (w : BitVec 16) (hw : opField w ≠ 0b10) : (0b10 : BitVec 2) ++ L ++ N ≠ w :=
    fun heq => hw (heq ▸ hop)
  have hinit := mt (initRow_holds_iff _).mp (hne 0x0000 (by decide))
  have habsorb := mt (absorbRow_holds_iff _).mp (hne 0x4000 (by decide))
  rw [decode, if_neg (not_not_intro h), if_neg hinit, if_neg habsorb, if_pos ((finalRow_holds_iff _).mpr hop),
    lField_final, nField_final]

/-! ## The digest registers -/

theorem exec_init_H (h : exec .init s = .next t) : t.H = zeroWords := by
  obtain rfl := execInit_inv h
  rfl

theorem exec_absorb_H {m : List Byte} (h : exec (.absorb m) s = .next t) :
    t.H = xform s.par s.H (words (blockOf m)) := by
  obtain ⟨-, rfl⟩ := execAbsorb_inv h
  simp

theorem exec_final_H {L : BitVec 6} {N : BitVec 8} {tail : List Byte} (h : exec (.final L N tail) s = .next t) :
    t.H = if 1 ≤ N.toNat ∧ N.toNat ≤ 64 then zeroWords else s.H := by
  simp only [← badOutputSize_eq_false]
  obtain ⟨-, ⟨hN, rfl⟩ | ⟨hN, rfl⟩⟩ := execFinal_inv h
  · simp [hN]
  · simp [hN]

/-- A step that goes on with a command on the port has found its payload framed (R65), and runs what it decodes to. -/
theorem exec_of_step {cmd : BitVec 16} {din : List Byte} {rest : List PortEvent} {i : Instr}
    (hc : s.cmds = .command cmd din :: rest) (hd : din.length = payloadBytes cmd → decode cmd din = .instr i)
    (h : step s = .next t) : exec i { s with cmds := rest } = .next t := by
  rw [step_of_command hc] at h
  by_cases hlen : din.length = payloadBytes cmd
  · simpa only [hd hlen] using h
  · simp [decode_eq_payloadLength.mpr hlen] at h

theorem step_of_hardwareReset {during : Option (BitVec 16 × List Byte)} {rest : List PortEvent}
    (hc : s.cmds = .hardwareReset during :: rest) :
    step s = .next ({ s with cmds := rest } : State).hardwareReset := by
  rw [step, State.takeEvent_of_cons s _ _ hc]

theorem step_of_reserved {cmd : BitVec 16} {din : List Byte} {rest : List PortEvent}
    (hc : s.cmds = .command cmd din :: rest) (hd : decode cmd din = .reserved) :
    step s = .next ({ s with cmds := rest } : State).illegal := by
  rw [step_of_command hc, hd]

theorem step_of_nil (hc : s.cmds = []) : step s = .next s := by
  rw [step, State.takeEvent_of_nil s hc, State.idle_eq]

end Sys2Proof.Machine
end

section
/-! PROOFS. The statements of 10_state.md. -/

namespace Sys2Proof.Machine

/-- Settles O42 (R25, R26, R84, R66), by the events a step can take. -/
theorem stepKeepsInvariant : Obligations.StepKeepsInvariant := by
  intro s t hi h
  rcases step_inv h with ⟨-, rfl⟩ | ⟨rest, -, -, rfl⟩ | ⟨-, -, rest, -, -, rfl⟩ | ⟨-, -, rest, i, -, -, he⟩
  · exact hi
  · exact (hi.withCmds rest).clear.releaseWork
  · exact (hi.withCmds rest).raise .illegalCmd
  · exact exec_keeps_inv (hi.withCmds rest) he

/-- Settles O44 (R21, R22): a step is known from what the host presents, and so is what it does to `H`. -/
theorem digestIsWrittenOnlyByItsCommands : Obligations.DigestIsWrittenOnlyByItsCommands := by
  intro s t h
  refine ⟨fun m rest hc => ?_, fun L N tail rest hc => ?_, fun din rest hc => ?_, fun during rest hc => ?_,
    fun cmd din rest hc hd => ?_, fun hc => ?_⟩
  · exact exec_absorb_H (s := { s with cmds := rest }) (exec_of_step hc decode_absorbWord h)
  · exact exec_final_H (s := { s with cmds := rest }) (exec_of_step hc decode_finalWord h)
  · exact exec_init_H (s := { s with cmds := rest }) (exec_of_step hc decode_initWord h)
  · rw [step_of_hardwareReset hc] at h
    cases h
    exact State.hardwareReset_H _
  · rw [step_of_reserved hc hd] at h
    cases h
    exact State.illegal_H _
  · rw [step_of_nil hc] at h
    cases h
    rfl

end Sys2Proof.Machine
end

section
/-! PROOFS. Blocks, words and bytes (20_memory.md R41 to R43): `words` and `bytes`, the blocks a byte list is cut
into, the last padding block. -/

namespace Sys2Proof.Machine

/-! ## Words and bytes -/

/-- Packing the serialised digest: lane `j` of word `i` is byte `8i + j`, which is lane `j` of word `i`. -/
@[simp] theorem words_bytes (H : Words) : words (bytes H) = H := by
  ext1 i hi
  have hdiv (j : Fin 8) : (8 * i + j.val) / 8 = i := by omega
  have hmod (j : Fin 8) : (8 * i + j.val) % 8 = j.val := by omega
  simp only [words_getElem, bytes_getElem, hdiv, hmod]
  exact be64_byte H[i]

/-- Serialising the packed block: byte `n` is byte `8 (n div 8) + n mod 8`. -/
@[simp] theorem bytes_words (m : Block) : bytes (words m) = m := by
  ext1 n hn
  simp only [bytes_getElem, words_getElem, byte_be64, Nat.div_add_mod]

/-- The 64 bytes are eight runs of eight, one a word (R42). -/
theorem bytes_toList (H : Words) : (bytes H).toList = H.toList.flatMap unbe64 := by
  have hdiv (i j : Fin 8) : (i.val * 8 + j.val) / 8 = i.val := by omega
  have hmod (i j : Fin 8) : (i.val * 8 + j.val) % 8 = j.val := by omega
  have hH : H.toList = List.ofFn fun i : Fin 8 => H[i.val] := by
    rw [← Vector.toList_ofFn, Vector.ofFn_getElem]
  rw [bytes, Vector.toList_ofFn, List.ofFn_mul (m := 8) (n := 8), hH, List.flatMap_def, List.map_ofFn]
  simp only [hdiv, hmod, Function.comp_def, unbe64_eq_ofFn]

/-- Bytes 0 to 7 are those of the first word. -/
theorem bytes_toList_take_eight (H : Words) : (bytes H).toList.take 8 = unbe64 H[0] := by
  rw [bytes_toList, Words.toList_eq]
  rfl

/-- Bytes 48 to 63 are those of the last two words. -/
theorem bytes_toList_drop_48 (H : Words) : (bytes H).toList.drop 48 = unbe64 H[6] ++ unbe64 H[7] := by
  rw [bytes_toList, Words.toList_eq]
  rfl

/-! ## Pieces of 64 bytes, by position -/

theorem chunks_getElem {n i : Nat} (l : List Byte) (h : i < (chunks n l).length) :
    (chunks n l)[i] = (l.drop (64 * i)).take 64 := by
  induction n generalizing l i with
  | zero => exact absurd h (Nat.not_lt_zero i)
  | succ n ih =>
    cases i with
    | zero => rfl
    | succ i =>
      simp only [chunks, List.getElem_cons_succ, ih, List.drop_drop]
      rw [Nat.mul_succ, Nat.add_comm]

/-- Byte `n` of block `i` of a list is byte `64 i + n` of the list. -/
theorem blocks_getElem_getElem {l : List Byte} {i n : Nat} (hi : i < (blocks l).length) (hn : n < 64) :
    (blocks l)[i][n] = l.getD (64 * i + n) 0 := by
  simp only [blocks, List.getElem_map, chunks_getElem, blockOf_getElem, List.getD_eq_getElem?_getD]
  rw [List.getElem?_take_of_lt hn, List.getElem?_drop]

/-! ## The last padding block -/

/-- A tail of at most 63 bytes is padded to one block or to two (R144). -/
theorem pad_length_eq {tail : List Byte} (tot : BitVec 128) (h : tail.length ≤ 63) :
    (pad tail tot).length = if tail.length ≤ 31 then 64 else 128 := by
  rw [pad_length]
  split
  · rw [padZeros_of_le ‹_›]
    omega
  · rw [padZeros_of_ge (by omega) h]
    omega

/-- The second half of a block is 16 zero bytes and the 16 bytes of a length (R43). -/
structure EndsWithLength (P : Block) (tot : BitVec 128) : Prop where
  zero : ∀ (n : Nat) (hn : n < 48), 32 ≤ n → P[n] = 0
  length : ∀ (k : Nat) (hk : k < 16), P[48 + k] = tot.extractLsb' (120 - 8 * k) 8

/-- So the last padding block ends, for every tail (R43). -/
theorem exists_padBlocks_getLast? {tail : List Byte} (tot : BitVec 128) (h : tail.length ≤ 63) :
    ∃ P, (padBlocks tail tot).getLast? = some P ∧ EndsWithLength P tot := by
  have hpad := pad_length tail tot
  obtain ⟨i, hi, hlen⟩ : ∃ i, (padBlocks tail tot).length = i + 1 ∧ (pad tail tot).length = 64 * i + 64 := by
    rw [padBlocks, blocks_length, pad_length_eq tot h]
    split
    · exact ⟨0, rfl, rfl⟩
    · exact ⟨1, rfl, rfl⟩
  have hlast : i < (padBlocks tail tot).length := by omega
  have hbyte {n : Nat} (hn : n < 64) : (padBlocks tail tot)[i][n] = (pad tail tot).getD (64 * i + n) 0 :=
    blocks_getElem_getElem hlast hn
  refine ⟨(padBlocks tail tot)[i], ?_, ⟨fun n hn h32 => ?_, fun k hk => ?_⟩⟩
  · rw [List.getLast?_eq_getElem?, hi, Nat.add_sub_cancel, List.getElem?_eq_getElem hlast]
  · rw [hbyte, pad_getD _ _ (by omega), if_neg (by omega), if_neg (by omega), if_pos (by omega)]
  · rw [hbyte, pad_getD _ _ (by omega), if_neg (by omega), if_neg (by omega), if_neg (by omega), hlen,
      (by omega : 64 * i + (48 + k) + 16 - (64 * i + 64) = k)]

section
variable {P : Block} {tot : BitVec 128}

theorem EndsWithLength.words_zero (h : EndsWithLength P tot) {i : Nat} (h4 : 4 ≤ i) (hi : i < 6) :
    (words P)[i] = 0 := word_ext_lanes fun j => by
  rw [words_getElem, byte_be64, h.zero _ (by omega) (by omega)]
  exact (byte_zero j).symm

theorem EndsWithLength.words_six (h : EndsWithLength P tot) : (words P)[6] = hi64 tot := word_ext_lanes fun j => by
  rw [words_getElem, byte_be64, byte_hi64]
  exact h.length j (by omega)

theorem EndsWithLength.words_seven (h : EndsWithLength P tot) : (words P)[7] = lo64 tot := word_ext_lanes fun j => by
  rw [words_getElem, byte_be64, byte_lo64, (by omega : 56 - 8 * j.val = 120 - 8 * (8 + j.val))]
  simpa only [← Nat.add_assoc] using h.length (8 + j) (by omega)

theorem EndsWithLength.toList_drop_48 (h : EndsWithLength P tot) :
    P.toList.drop 48 = unbe64 (hi64 tot) ++ unbe64 (lo64 tot) := by
  have hdrop := bytes_toList_drop_48 (words P)
  rwa [bytes_words, h.words_six, h.words_seven] at hdrop

/-- A length of 24 bits has its one byte that is not zero at the block's end: the worked example of R43. -/
theorem EndsWithLength.zero_of_24 (h : EndsWithLength P 24) {n : Nat} (h32 : 32 ≤ n) (h62 : n ≤ 62) : P[n] = 0 := by
  have hbits : ∀ k : Fin 15, (24 : BitVec 128).extractLsb' (120 - 8 * k.val) 8 = 0 := by decide
  rcases Nat.lt_or_ge n 48 with h48 | h48
  · exact h.zero n h48 h32
  · obtain ⟨k, rfl⟩ := Nat.exists_eq_add_of_le h48
    exact (h.length k (by omega)).trans (hbits ⟨k, by omega⟩)

end

end Sys2Proof.Machine
end

section
/-! PROOFS. What a step depends on (20_memory.md R50, R55). -/

namespace Sys2Proof.Machine

/-! ## Where a command and a step go on or are refused -/

section
variable {s s' : State}

theorem exec_absorb_of_length_ne {m : List Byte} (s : State) (h : m.length ≠ 64) :
    exec (.absorb m) s = .refused .payloadLength := if_neg h

theorem exec_final_of_length_ne {L : BitVec 6} (N : BitVec 8) {tail : List Byte} (s : State)
    (h : tail.length ≠ L.toNat) : exec (.final L N tail) s = .refused .payloadLength := if_neg h

theorem step_of_instr {cmd : BitVec 16} {din : List Byte} {rest : List PortEvent} {i : Instr}
    (hc : s.cmds = .command cmd din :: rest) (hd : decode cmd din = .instr i) :
    step s = exec i { s with cmds := rest } := by
  rw [step_of_command hc, hd]

theorem step_of_payloadLength {cmd : BitVec 16} {din : List Byte} {rest : List PortEvent}
    (hc : s.cmds = .command cmd din :: rest) (hd : decode cmd din = .payloadLength) :
    step s = .refused .payloadLength := by
  rw [step_of_command hc, hd]

/-! ## Agreement on the inputs, one lemma an operation -/

theorem State.SameInputs.withCmds (h : s.SameInputs s') (rest : List PortEvent) :
    ({ s with cmds := rest } : State).SameInputs { s' with cmds := rest } :=
  ⟨h.H, h.LEN, h.par, rfl⟩

theorem State.SameInputs.respond (h : s.SameInputs s') (r : Response) : (s.respond r).SameInputs (s'.respond r) :=
  ⟨h.H, h.LEN, h.par, h.cmds⟩

theorem State.SameInputs.clear (h : s.SameInputs s') : s.clear.SameInputs s'.clear := ⟨rfl, rfl, h.par, h.cmds⟩

theorem State.SameInputs.countBlock (h : s.SameInputs s') : s.countBlock.SameInputs s'.countBlock where
  H := by simp [h.H]
  LEN := by simp [h.LEN]
  par := by simp [h.par]
  cmds := by simp [h.cmds]

/-- The free values are drawn into the working registers alone. -/
theorem State.SameInputs.releaseWork (h : s.SameInputs s') : s.releaseWork.SameInputs s'.releaseWork :=
  ⟨h.H, h.LEN, h.par, h.cmds⟩

/-- The transform loads the working registers before it reads them. -/
theorem State.SameInputs.transform (h : s.SameInputs s') (B : Words) :
    (s.transform B).SameInputs (s'.transform B) where
  H := by simp [h.H, h.par]
  LEN := h.LEN
  par := h.par
  cmds := h.cmds

/-- `FINAL` fills the staging buffer before it reads it. -/
theorem State.SameInputs.finalDigest (h : s.SameInputs s') (L : BitVec 6) (tail : List Byte) :
    (finalDigest L tail s).SameInputs (finalDigest L tail s') where
  H := by simp [h.H, h.LEN, h.par]
  LEN := by simp [h.LEN]
  par := by simp [h.par]
  cmds := by simp [h.cmds]

/-! ## Outcomes that no host can tell apart -/

/-- Two outcomes, reached from `s` and from `s'`, that no host can tell apart: the same refusal, or next states that
agree on what a command can depend on, with the same new responses. -/
def SameOutcome (s s' : State) (o o' : Host.Outcome State Fault Refusal) : Prop :=
  (∃ r, o = .refused r ∧ o' = .refused r) ∨
  (∃ t t' new, o = .next t ∧ o' = .next t' ∧ t.SameInputs t' ∧ t.rsps = s.rsps ++ new ∧ t'.rsps = s'.rsps ++ new)

theorem sameOutcome_refused (r : Refusal) : SameOutcome s s' (.refused r) (.refused r) := .inl ⟨r, rfl, rfl⟩

/-- Going on without a response. -/
theorem State.SameInputs.sameOutcome_next {t t' : State} (h : t.SameInputs t') (hr : t.rsps = s.rsps)
    (hr' : t'.rsps = s'.rsps) : SameOutcome s s' (.next t) (.next t') :=
  .inr ⟨t, t', [], rfl, rfl, h, by rw [hr, List.append_nil], by rw [hr', List.append_nil]⟩

/-- Going on with one response. -/
theorem State.SameInputs.sameOutcome_respond {t t' : State} (h : t.SameInputs t') (hr : t.rsps = s.rsps)
    (hr' : t'.rsps = s'.rsps) (r : Response) : SameOutcome s s' (.next (t.respond r)) (.next (t'.respond r)) :=
  .inr ⟨_, _, [r], rfl, rfl, h.respond r, by rw [State.respond_rsps, hr], by rw [State.respond_rsps, hr']⟩

/-- A command reads `H`, `LEN` and the parameters, and nothing else of the state. -/
theorem State.SameInputs.exec (h : s.SameInputs s') (i : Instr) : SameOutcome s s' (exec i s) (exec i s') := by
  cases i with
  | init => exact h.clear.sameOutcome_respond rfl rfl _
  | absorb m =>
    by_cases hm : m.length = 64
    · rw [exec_absorb_of_length s hm, exec_absorb_of_length s' hm]
      exact (h.transform _).countBlock.releaseWork.sameOutcome_respond (by simp) (by simp) _
    · rw [exec_absorb_of_length_ne s hm, exec_absorb_of_length_ne s' hm]
      exact sameOutcome_refused _
  | final L N tail =>
    by_cases hl : tail.length = L.toNat
    · cases hN : badOutputSize N with
      | true =>
        have hbad := badOutputSize_eq_true.mp hN
        rw [exec_final_of_bad s hl hbad, exec_final_of_bad s' hl hbad]
        exact h.sameOutcome_respond rfl rfl _
      | false =>
        have hlegal := badOutputSize_eq_false.mp hN
        have hd := h.finalDigest L tail
        rw [exec_final_of_legal s hl hlegal, exec_final_of_legal s' hl hlegal, hd.H]
        exact hd.clear.releaseWork.sameOutcome_respond (by simp) (by simp) _
    · rw [exec_final_of_length_ne N s hl, exec_final_of_length_ne N s' hl]
      exact sameOutcome_refused _

theorem State.SameInputs.step (h : s.SameInputs s') : SameOutcome s s' (step s) (step s') := by
  obtain ⟨events, hc, hc'⟩ : ∃ events, s.cmds = events ∧ s'.cmds = events := ⟨_, rfl, h.cmds.symm⟩
  match events with
  | [] =>
    rw [step_of_nil hc, step_of_nil hc']
    exact h.sameOutcome_next rfl rfl
  | .hardwareReset _ :: rest =>
    rw [step_of_hardwareReset hc, step_of_hardwareReset hc']
    exact (h.withCmds rest).clear.releaseWork.sameOutcome_next rfl rfl
  | .command cmd din :: rest =>
    cases hd : decode cmd din with
    | instr i =>
      rw [step_of_instr hc hd, step_of_instr hc' hd]
      exact (h.withCmds rest).exec i
    | reserved =>
      rw [step_of_reserved hc hd, step_of_reserved hc' hd]
      exact (h.withCmds rest).sameOutcome_respond rfl rfl _
    | payloadLength =>
      rw [step_of_payloadLength hc hd, step_of_payloadLength hc' hd]
      exact sameOutcome_refused _

end

end Sys2Proof.Machine
end

section
/-! PROOFS. The statements of 20_memory.md. -/

namespace Sys2Proof.Machine

/-- Settles O5 (R41, R42): each half of the inverse lane by lane, the serialisation word by word. -/
theorem wordsAndBytesAreInverse : Obligations.WordsAndBytesAreInverse := by
  refine ⟨fun m i => words_getElem m i i.isLt, byte_words, by decide, bytes_toList,
    fun H n => bytes_getElem H n n.isLt, fun H h => ?_, bytes_words, words_bytes⟩
  rw [bytes_toList_take_eight, h]
  decide

/-- Settles O32 (R43): every clause reads the second half of the last padding block. -/
theorem lengthFieldWords : Obligations.LengthFieldWords := by
  intro tail tot htail
  obtain ⟨P, hP, h⟩ := exists_padBlocks_getLast? tot htail
  refine ⟨P, hP, h.words_zero (by decide) (by decide), h.words_zero (by decide) (by decide), h.words_six,
    h.words_seven, fun n h32 h48 => h.zero n h48 h32, h.toList_drop_48, ?_⟩
  rintro rfl
  exact ⟨fun n => h.zero_of_24, h.length 15 (by decide)⟩

/-- Settles O46 (R55, R27, R33), by the events a step can take. -/
theorem outcomesDependOnInputsAlone : Obligations.OutcomesDependOnInputsAlone := fun _ _ h => h.step

/-- Settles O12 (R50, R28, R186). -/
theorem stepRunsDecodedCommand : Obligations.StepRunsDecodedCommand :=
  ⟨fun _ _ _ _ _ => step_of_instr, fun _ => step_of_nil⟩

end Sys2Proof.Machine
end

section
/-! PROOFS. The decoder and the encoder (30_encoding.md R61 to R72): every well-formed command is framed, a word is read
by its `op`, and which words no row holds. -/

namespace Sys2Proof.Machine

/-! ## Framing, and both directions between words and commands -/

theorem payloadFramed (i : Instr) : Laws.PayloadFramed.Statement i := by
  cases i with
  | init => exact Laws.PayloadFramed.init
  | absorb m => exact Laws.PayloadFramed.absorb m
  | final L N tail => exact Laws.PayloadFramed.final L N tail

theorem and_mask_eq_iff_holds (row : OpcodeRow) (w : BitVec 16) :
    w &&& row.mask = row.bits ↔ row.holds w = true := beq_iff_eq.symm

theorem decode_of_opField_final {w : BitVec 16} {din : List Byte} (hop : opField w = 0b10)
    (hlen : din.length = payloadBytes w) : decode w din = .instr (.final (lField w) (nField w) din) := by
  have hw : w = (0b10 : BitVec 2) ++ lField w ++ nField w := hop ▸ eq_fields w
  generalize lField w = L, nField w = N at hw ⊢
  subst hw
  exact decode_finalWord hlen

theorem payloadBytes_of_opField_final {w : BitVec 16} (hop : opField w = 0b10) :
    payloadBytes w = (lField w).toNat := by
  rw [payloadBytes, hop]
  rfl

theorem payloadBytes_of_opField_ne_final {w : BitVec 16} (hop : opField w ≠ 0b10) :
    payloadBytes w = if opField w = 0b01 then 64 else 0 := by
  rw [payloadBytes, if_neg hop]
  rfl

theorem encode_of_decode {cmd : BitVec 16} {din : List Byte} {i : Instr} (h : decode cmd din = .instr i) :
    encode i = (cmd, din) ∧ i.wf = true := by
  obtain ⟨rfl, rfl, rfl⟩ | ⟨rfl, hlen, rfl⟩ | ⟨L, N, rfl, hlen, rfl⟩ := decode_eq_instr h
  · exact ⟨rfl, rfl⟩
  · exact ⟨rfl, beq_iff_eq.mpr hlen⟩
  · exact ⟨rfl, beq_iff_eq.mpr hlen⟩

/-! ## `op` and the rest of a word -/

theorem opField_toNat (w : BitVec 16) : (opField w).toNat = w.toNat / 2 ^ 14 := by
  rw [opField, BitVec.extractLsb'_toNat, Nat.shiftRight_eq_div_pow]
  omega

/-- A word is its `op` and its 14 bits below. -/
theorem eq_iff_opField_and_rest (w v : BitVec 16) :
    w = v ↔ opField w = opField v ∧ w.extractLsb' 0 14 = v.extractLsb' 0 14 := by
  simp only [BitVec.toNat_eq, opField_toNat, BitVec.extractLsb'_toNat, Nat.shiftRight_zero]
  omega

theorem opField_cases (w : BitVec 16) :
    opField w = 0b00 ∨ opField w = 0b01 ∨ opField w = 0b10 ∨ opField w = 0b11 :=
  (by decide : ∀ op : BitVec 2, op = 0b00 ∨ op = 0b01 ∨ op = 0b10 ∨ op = 0b11) (opField w)

/-- The words of no row: `op = 11`, or a bit set below an `op` that leaves no bit free (R67). -/
theorem in_no_row_iff (w : BitVec 16) : (w ≠ 0x0000 ∧ w ≠ 0x4000 ∧ opField w ≠ 0b10) ↔
    (opField w = 0b11 ∨ (opField w = 0b00 ∨ opField w = 0b01) ∧ w.extractLsb' 0 14 ≠ 0) := by
  have hinit : w = 0x0000 ↔ opField w = 0b00 ∧ w.extractLsb' 0 14 = 0 := eq_iff_opField_and_rest w 0x0000
  have habsorb : w = 0x4000 ↔ opField w = 0b01 ∧ w.extractLsb' 0 14 = 0 := eq_iff_opField_and_rest w 0x4000
  rw [ne_eq, ne_eq, hinit, habsorb]
  rcases opField_cases w with hop | hop | hop | hop <;> simp [hop]

theorem decode_eq_reserved_iff_op {w : BitVec 16} {din : List Byte} : decode w din = .reserved ↔
    din.length = (if opField w = 0b01 then 64 else 0) ∧
    (opField w = 0b11 ∨ (opField w = 0b00 ∨ opField w = 0b01) ∧ w.extractLsb' 0 14 ≠ 0) := by
  rw [decode_eq_reserved, ← in_no_row_iff]
  refine and_congr_left fun ⟨_, _, hop⟩ => ?_
  rw [payloadBytes_of_opField_ne_final hop]

end Sys2Proof.Machine
end

section
/-! PROOFS. The rows of the opcode map as intervals of words, and what their lengths count (30_encoding.md R72). -/

namespace Sys2Proof.Machine

/-! ## The rows -/

theorem initRow_holds_iff_mem (w : BitVec 16) : initRow.holds w = true ↔ w.toNat ∈ Finset.Ico 0x0000 0x0001 := by
  simp only [initRow_holds_iff, Finset.mem_Ico, BitVec.toNat_eq, BitVec.reduceToNat]
  omega

theorem absorbRow_holds_iff_mem (w : BitVec 16) :
    absorbRow.holds w = true ↔ w.toNat ∈ Finset.Ico 0x4000 0x4001 := by
  simp only [absorbRow_holds_iff, Finset.mem_Ico, BitVec.toNat_eq, BitVec.reduceToNat]
  omega

theorem finalRow_holds_iff_mem (w : BitVec 16) : finalRow.holds w = true ↔ w.toNat ∈ Finset.Ico 0x8000 0xC000 := by
  simp only [finalRow_holds_iff, Finset.mem_Ico, BitVec.toNat_eq, opField_toNat, BitVec.reduceToNat]
  omega

/-- The numbers of the words no row holds: what the three rows leave between them. -/
def reservedWords : Finset Nat :=
  Finset.Ico 0x0001 0x4000 ∪ Finset.Ico 0x4001 0x8000 ∪ Finset.Ico 0xC000 0x10000

theorem mem_reservedWords_iff {n : Nat} : n ∈ reservedWords ↔
    (1 ≤ n ∧ n < 0x4000) ∨ (0x4001 ≤ n ∧ n < 0x8000) ∨ (0xC000 ≤ n ∧ n < 0x10000) := by
  simp only [reservedWords, Finset.mem_union, Finset.mem_Ico, or_assoc]

theorem lt_of_mem_reservedWords {n : Nat} (h : n ∈ reservedWords) : n < 65536 := by
  rw [mem_reservedWords_iff] at h
  omega

theorem no_row_holds_iff_mem (w : BitVec 16) :
    (!(initRow.holds w || absorbRow.holds w || finalRow.holds w)) = true ↔ w.toNat ∈ reservedWords := by
  rw [Bool.not_eq_true', ← Bool.not_eq_true, Bool.or_eq_true, Bool.or_eq_true, initRow_holds_iff_mem,
    absorbRow_holds_iff_mem, finalRow_holds_iff_mem, mem_reservedWords_iff]
  simp only [Finset.mem_Ico]
  omega

theorem disjoint_Ico_of_le {a b c d : Nat} (h : b ≤ c) : Disjoint (Finset.Ico a b) (Finset.Ico c d) :=
  Finset.disjoint_left.mpr fun _ hab hcd =>
    absurd ((Finset.mem_Ico.mp hab).2.trans_le h) (not_lt.mpr (Finset.mem_Ico.mp hcd).1)

theorem reservedWords_card : reservedWords.card = 49150 := by
  rw [reservedWords, Finset.card_union_of_disjoint, Finset.card_union_of_disjoint]
  · simp only [Nat.card_Ico]
  · exact disjoint_Ico_of_le (by decide)
  · rw [Finset.disjoint_union_left]
    exact ⟨disjoint_Ico_of_le (by decide), disjoint_Ico_of_le (by decide)⟩

/-! ## The counts -/

/-- Counting the words with a property is counting their numbers. -/
theorem countP_words {p : BitVec 16 → Bool} {S : Finset Nat} (hp : ∀ w, p w = true ↔ w.toNat ∈ S)
    (hS : ∀ n ∈ S, n < 65536) : (List.range 65536).countP (fun n => p (BitVec.ofNat 16 n)) = S.card := by
  have hmem {n : Nat} (hn : n < 65536) : p (BitVec.ofNat 16 n) = true ↔ n ∈ S := by
    rw [hp, BitVec.toNat_ofNat, Nat.mod_eq_of_lt hn]
  have hfilter : (Finset.range 65536).filter (fun n => p (BitVec.ofNat 16 n) = true) = S := by
    ext n
    rw [Finset.mem_filter, Finset.mem_range, and_congr_right hmem]
    exact and_iff_right_of_imp (hS n)
  rw [← hfilter, ← Nat.count_eq_card_filter_range, Nat.count]
  simp only [Bool.decide_eq_true]

theorem countP_row {row : OpcodeRow} {lo hi : Nat} (hrow : ∀ w, row.holds w = true ↔ w.toNat ∈ Finset.Ico lo hi)
    (hhi : hi ≤ 65536) : (List.range 65536).countP (fun n => row.holds (BitVec.ofNat 16 n)) = hi - lo := by
  rw [countP_words hrow fun n hn => (Finset.mem_Ico.mp hn).2.trans_le hhi, Nat.card_Ico]

end Sys2Proof.Machine
end

section
/-! PROOFS. The one response of a command (30_encoding.md R60, R66, R68). -/

namespace Sys2Proof.Machine

variable {s t u : State}

/-- The command with the word `cmd` went from `s` to `t`: the port as it was, one response more, of the length that
`cmd` and the status give (R60, R66). -/
def Answered (cmd : BitVec 16) (s t : State) : Prop :=
  t.cmds = s.cmds ∧ ∃ r : Response, t.rsps = s.rsps ++ [r] ∧ r.dlen = r.dout.length ∧ r.dlen ≤ 64 ∧
    r.dlen = if r.status = .ok ∧ opField cmd = 0b10 then (nField cmd).toNat else 0

theorem answered_respond {cmd : BitVec 16} {r : Response} (hcmds : u.cmds = s.cmds) (hrsps : u.rsps = s.rsps)
    (hr : r.Wf) (hlen : r.dlen = if r.status = .ok ∧ opField cmd = 0b10 then (nField cmd).toNat else 0) :
    Answered cmd s (u.respond r) :=
  ⟨hcmds, r, by rw [State.respond_rsps, hrsps], hr.dlen, hr.bound, hlen⟩

theorem answered_raise (cmd : BitVec 16) (s : State) {e : Status} (he : e ≠ .ok) : Answered cmd s (s.raise e) :=
  answered_respond rfl rfl (errorResponse_wf e) (if_neg fun h => he h.1).symm

/-- A command without output is answered OK with no byte. -/
theorem answered_ok_nil {cmd : BitVec 16} (hcmds : u.cmds = s.cmds) (hrsps : u.rsps = s.rsps)
    (hop : opField cmd ≠ 0b10) : Answered cmd s (u.respond (okResponse [])) :=
  answered_respond hcmds hrsps (okResponse_wf (Nat.zero_le 64)) (if_neg fun h => hop h.2).symm

theorem exec_answered {i : Instr} (h : exec i s = .next t) : Answered (encodeWord i) s t := by
  cases i with
  | init =>
    obtain rfl := execInit_inv h
    exact answered_ok_nil rfl rfl (by decide)
  | absorb m =>
    obtain ⟨-, rfl⟩ := execAbsorb_inv h
    exact answered_ok_nil (cmd := 0x4000) (by simp) (by simp) (by decide)
  | final L N tail =>
    obtain ⟨-, ⟨-, rfl⟩ | ⟨hN, rfl⟩⟩ := execFinal_inv h
    · exact answered_raise _ s (by decide)
    · obtain ⟨-, hmax⟩ := badOutputSize_eq_false.mp hN
      have hout := outputBytes_length (H := (finalDigest L tail s).H) hmax
      refine answered_respond (by simp) (by simp) (okResponse_wf (hout.trans_le hmax)) (hout.trans ?_)
      rw [encodeWord, opField_final, nField_final, if_pos ⟨rfl, rfl⟩]

theorem step_answered {cmd : BitVec 16} {din : List Byte} {rest : List PortEvent}
    (hc : s.cmds = .command cmd din :: rest) (h : step s = .next t) :
    Answered cmd { s with cmds := rest } t := by
  cases hd : decode cmd din with
  | instr i =>
    rw [step_of_instr hc hd] at h
    have hcmd : encodeWord i = cmd := congrArg Prod.fst (encode_of_decode hd).1
    exact hcmd ▸ exec_answered h
  | reserved =>
    rw [step_of_reserved hc hd] at h
    cases h
    exact answered_raise cmd _ (by decide)
  | payloadLength =>
    rw [step_of_payloadLength hc hd] at h
    cases h

/-- A framed `FINAL` always goes on, with a response that its size check alone decides (R68, R141). -/
theorem exec_final_answers (s : State) {L : BitVec 6} (N : BitVec 8) {tail : List Byte}
    (hlen : tail.length = L.toNat) : ∃ t r, exec (.final L N tail) s = .next t ∧ t.rsps = s.rsps ++ [r] ∧
      r.status = if badOutputSize N then .invalidOutputSize else .ok := by
  cases hN : badOutputSize N with
  | true => exact ⟨_, _, exec_final_of_bad s hlen (badOutputSize_eq_true.mp hN), rfl, rfl⟩
  | false =>
    have hrsps := finalDigest_rsps L tail s
    exact ⟨_, okResponse (outputBytes (finalDigest L tail s).H N),
      exec_final_of_legal s hlen (badOutputSize_eq_false.mp hN), congrArg (· ++ [_]) hrsps, rfl⟩

end Sys2Proof.Machine
end

section
/-! PROOFS. The statements of 30_encoding.md. -/

namespace Sys2Proof.Machine

/-- Settles O6 (R61, R62, R65, R72): a well-formed command is framed, and each row's word decodes to its command. -/
theorem decodeOfEncode : Obligations.DecodeOfEncode := by
  intro i hi
  have hlen : (encodePayload i).length = payloadBytes (encodeWord i) := (payloadFramed i).mp hi
  cases i with
  | init => exact decode_initWord hlen
  | absorb m => exact decode_absorbWord hlen
  | final L N tail => exact decode_finalWord hlen

/-- Settles O7 (R65, R72), by what can decode to a command. -/
theorem encodeOfDecode : Obligations.EncodeOfDecode := fun _ _ _ => encode_of_decode

/-- Settles O8 (R72): a row's words are decoded by their `op`, and are an interval, which gives the counts. -/
theorem opcodeMapIsDisjointAndCounted : Obligations.OpcodeMapIsDisjointAndCounted := by
  have hinit (w : BitVec 16) : w &&& 0xFFFF = 0x0000 ↔ w = 0x0000 :=
    (and_mask_eq_iff_holds initRow w).trans (initRow_holds_iff w)
  have habsorb (w : BitVec 16) : w &&& 0xFFFF = 0x4000 ↔ w = 0x4000 :=
    (and_mask_eq_iff_holds absorbRow w).trans (absorbRow_holds_iff w)
  have hfinal (w : BitVec 16) : w &&& 0xC000 = 0x8000 ↔ opField w = 0b10 :=
    (and_mask_eq_iff_holds finalRow w).trans (finalRow_holds_iff w)
  refine ⟨fun w din hlen => ?_, fun w => ?_, countP_row initRow_holds_iff_mem (by decide),
    countP_row absorbRow_holds_iff_mem (by decide), countP_row finalRow_holds_iff_mem (by decide), ?_⟩
  · simp only [ne_eq, hinit, habsorb, hfinal]
    refine ⟨?_, ?_, fun hop => ?_, fun hno => decode_eq_reserved.mpr ⟨hlen, hno⟩⟩
    · rintro rfl
      exact ⟨decode_initWord hlen, hlen⟩
    · rintro rfl
      exact ⟨decode_absorbWord hlen, hlen⟩
    · exact ⟨decode_of_opField_final hop hlen, hlen.trans (payloadBytes_of_opField_final hop)⟩
  · rw [hinit, habsorb, hfinal]
    refine ⟨?_, ?_, ?_⟩ <;> rintro ⟨rfl, hw⟩ <;> exact absurd hw (by decide)
  · exact (countP_words no_row_holds_iff_mem fun _ => lt_of_mem_reservedWords).trans reservedWords_card

/-- Settles O9 (R67, R175, R65): the words of no row, told by `op` and the bits below it. -/
theorem reservedWordsAnswerIllegalCommand : Obligations.ReservedWordsAnswerIllegalCommand :=
  ⟨fun _ _ => decode_eq_reserved_iff_op, fun _ _ _ _ => step_of_reserved, rfl⟩

/-- Settles O10 (R68): the word decodes by its `op`, the size check decides between the other two statuses. -/
theorem everyFinalWordDecodes : Obligations.EveryFinalWordDecodes := by
  intro L N tail hlen
  refine ⟨decode_finalWord (hlen.trans (payloadBytes_final L N).symm), fun s => ?_⟩
  obtain ⟨t, r, hexec, hrsps, hstatus⟩ := exec_final_answers s N hlen
  refine ⟨t, r, hexec, hrsps, ?_, fun hN => ?_⟩
  · rw [hstatus]
    split <;> decide
  · rw [hstatus, if_pos (badOutputSize_eq_true.mpr hN)]

/-- Settles O45 (R60, R66), by what the word decodes to. -/
theorem oneResponsePerCommand : Obligations.OneResponsePerCommand := fun _ _ _ _ _ => step_answered

/-- Settles O11 (R74). -/
theorem workedEncodings : Obligations.WorkedEncodings := by
  unfold Obligations.WorkedEncodings
  decide

end Sys2Proof.Machine
end

section
/-! PROOFS. The constants (40_constant_tables.md): a command leaves them alone (R84), the tables are rotations (R81),
the transcribed values are those of the construction (R87 to R91), and the construction is a permutation (R92). -/

namespace Sys2Proof.Machine

/-! ## The constants across a command -/

/-- A command that completes leaves the constants as they were, whatever it transforms, clears or answers. -/
theorem exec_par {i : Instr} {s t : State} (h : exec i s = .next t) : t.par = s.par := by
  cases i with
  | init =>
    obtain rfl := execInit_inv h
    rfl
  | absorb m =>
    obtain ⟨-, rfl⟩ := execAbsorb_inv h
    simp
  | final L N tail =>
    obtain ⟨-, ⟨-, rfl⟩ | ⟨-, rfl⟩⟩ := execFinal_inv h
    · rfl
    · simp

/-! ## The tables as rotations -/

theorem lookup_paramsW_zero (b : Byte) : lookup paramsW 0 b = entry T0 b :=
  (lookup_paramsW 0 b).trans (rotr64_zero _)

theorem lookup_paramsW_eq_rotr64 (k : Fin 4) (b : Byte) :
    lookup paramsW k b = rotr64 (lookup paramsW 0 b) (8 * k.val) := by
  rw [lookup_paramsW, lookup_paramsW_zero]

/-! ## The transcribed values: closed facts, one evaluation a table -/

theorem entry_SBOX : ∀ u : Byte, entry SBOX u = sboxFromMini u := by decide +kernel

theorem entry_T0 : ∀ b : Byte, entry T0 b = baseFromSbox b := by decide +kernel

theorem roundConstants_get : ∀ r : Fin 11, roundConstants.get r = rcFromSbox r := by decide

/-! ## The mini-box construction is a permutation -/

theorem miniEInv_get_miniE : ∀ x : BitVec 4, miniEInv.get (miniE.get x.toFin).toFin = x := by decide

theorem miniE_get_miniEInv : ∀ x : BitVec 4, miniE.get (miniEInv.get x.toFin).toFin = x := by decide

/-- The construction undone. `E` and `EINV` undo each other, and the nibbles `a` and `b` between the two layers differ
by as much after `r` is added to both as before: so `r`, which `R` makes of that difference alone, is known again. -/
def sboxInverse (v : Byte) : Byte :=
  let a := miniEInv.get (v.extractLsb' 4 4).toFin
  let b := miniE.get (v.extractLsb' 0 4).toFin
  let r := miniR.get (a ^^^ b).toFin
  miniEInv.get (a ^^^ r).toFin ++ miniE.get (b ^^^ r).toFin

theorem xor_xor_xor_cancel_right {n : Nat} (a b r : BitVec n) : (a ^^^ r) ^^^ (b ^^^ r) = a ^^^ b := by
  rw [BitVec.xor_comm b r, ← BitVec.xor_assoc, xor_cancel_right]

/-- The construction takes every value, whatever the mini-box `R` is: only `E` and `EINV` have to be inverses. -/
theorem sboxFromMini_sboxInverse (v : Byte) : sboxFromMini (sboxInverse v) = v := by
  simp only [sboxFromMini, sboxInverse, BitVec.extractLsb'_append_eq_left, BitVec.extractLsb'_append_eq_right,
    miniE_get_miniEInv, miniEInv_get_miniE, xor_xor_xor_cancel_right, xor_cancel_right]
  exact BitVec.extractLsb'_append_extractLsb'

end Sys2Proof.Machine
end

section
/-! PROOFS. The statements of 40_constant_tables.md. -/

namespace Sys2Proof.Machine

/-- Settles O43 (R84), by the events a step can take. -/
theorem constantsAreNeverWritten : Obligations.ConstantsAreNeverWritten := by
  intro s t h
  rcases step_inv h with ⟨-, rfl⟩ | ⟨rest, -, -, rfl⟩ | ⟨-, -, rest, -, -, rfl⟩ | ⟨-, -, rest, i, -, -, he⟩
  · rfl
  · exact State.hardwareReset_par _
  · exact State.illegal_par _
  · exact exec_par (s := { s with cmds := rest }) he

/-- Settles O14 (R81): the rotation as words, and what a rotation by whole bytes does to the lanes. -/
theorem tablesAreRotationsOfTheBase : Obligations.TablesAreRotationsOfTheBase := by
  intro k b
  refine ⟨lookup_paramsW_eq_rotr64 k b, fun j => ?_⟩
  rw [lookup_paramsW_eq_rotr64]
  exact byte_rotr64 _ (Fin.castLE (by decide) k) j

/-- Settles O15 (R87, R89, R91, R92): the transcribed values by evaluation, the permutation by its inverse. -/
theorem constantsFollowFromMiniBoxes : Obligations.ConstantsFollowFromMiniBoxes := by
  refine ⟨entry_SBOX, fun v => ⟨sboxInverse v, ?_⟩, fun b => ?_, roundConstants_get⟩
  · rw [entry_SBOX, sboxFromMini_sboxInverse]
  · rw [lookup_paramsW_zero, entry_T0, baseFromSbox, entry_SBOX]

end Sys2Proof.Machine
end

section
/-! PROOFS. The Round Pass (41_round_pass.md) as a sum over the eight lanes of the source: each lane is looked up in the
table of its own, half-swapped for lanes 4 to 7, and added to one output word (R102 to R104). -/

namespace Sys2Proof.Machine

/-! ## Sums over the lanes -/

/-- The exclusive-or of a family of eight values, one a lane. -/
def xorLanes {n : Nat} (f : Fin 8 → BitVec n) : BitVec n :=
  (List.finRange 8).foldl (fun acc j => acc ^^^ f j) 0

theorem xorLanes_eq {n : Nat} (f : Fin 8 → BitVec n) :
    xorLanes f = f 0 ^^^ f 1 ^^^ f 2 ^^^ f 3 ^^^ f 4 ^^^ f 5 ^^^ f 6 ^^^ f 7 := by
  change 0#n ^^^ f 0 ^^^ f 1 ^^^ f 2 ^^^ f 3 ^^^ f 4 ^^^ f 5 ^^^ f 6 ^^^ f 7 = _
  rw [BitVec.zero_xor]

theorem xorLanes_xor_xorLanes {n : Nat} (f g : Fin 8 → BitVec n) :
    xorLanes f ^^^ xorLanes g = xorLanes fun j => f j ^^^ g j := by
  simp only [xorLanes_eq]
  ac_rfl

/-- A family that is zero off one lane adds up to its value there. -/
theorem xorLanes_of_eq_zero_off {n : Nat} {f : Fin 8 → BitVec n} (l : Fin 8) (h : ∀ j, j ≠ l → f j = 0) :
    xorLanes f = f l := by
  have hf : f = fun j => if j = l then f l else 0 := by
    funext j
    split
    · next hj => rw [hj]
    · next hj => exact h j hj
  rw [hf, xorLanes_eq]
  fin_cases l <;> simp

theorem byte_xorLanes (f : Fin 8 → Word) (c : Fin 8) : byte (xorLanes f) c = xorLanes fun j => byte (f j) c := by
  simp only [xorLanes_eq, byte_xor]

/-! ## A Round Pass as a sum over the lanes -/

/-- Row `i` of the hardware's gather: lane `j` comes from word `i - j` (R102). -/
theorem gatherW_get : ∀ i : Fin 8, gatherW.get i =
    ⟨#v[⟨i - 4, 4⟩, ⟨i - 5, 5⟩, ⟨i - 6, 6⟩, ⟨i - 7, 7⟩], #v[⟨i, 0⟩, ⟨i - 1, 1⟩, ⟨i - 2, 2⟩, ⟨i - 3, 3⟩]⟩ := by
  decide

/-- What a source byte of lane `l` adds to its output word: the lookup in table `l mod 4`, half-swapped for the lanes
of the first group (R102 to R104). -/
def laneLookup (p : Params) (l : Fin 8) (b : Byte) : Word :=
  (if l.val < 4 then id else swap32) (lookup p (Fin.ofNat 4 l.val) b)

theorem laneLookup_xor_laneLookup (p : Params) (l : Fin 8) (a b : Byte) : laneLookup p l a ^^^ laneLookup p l b =
    (if l.val < 4 then id else swap32) (lookup p (Fin.ofNat 4 l.val) a ^^^ lookup p (Fin.ofNat 4 l.val) b) := by
  unfold laneLookup
  split
  · rfl
  · exact (swap32_xor _ _).symm

section
variable {p : Params} (hp : p.GATHER = gatherW) (src src' extra : Words) (i : Fin 8)
include hp

/-- R103, with the gather of R102 written out. -/
theorem rpass_getElem_gatherW : (rpass p src extra)[i] =
    swap32 (lookup p 0 (byte src[i - 4] 4) ^^^ lookup p 1 (byte src[i - 5] 5)
      ^^^ lookup p 2 (byte src[i - 6] 6) ^^^ lookup p 3 (byte src[i - 7] 7))
    ^^^ (lookup p 0 (byte src[i] 0) ^^^ lookup p 1 (byte src[i - 1] 1)
      ^^^ lookup p 2 (byte src[i - 2] 2) ^^^ lookup p 3 (byte src[i - 3] 3))
    ^^^ extra[i] := by
  rw [Fin.getElem_fin, rpass_getElem, hp, gatherW_get]
  rfl

/-- The half swap applied to each lookup of the first group by itself (R104). -/
theorem rpass_getElem_lanes :
    (rpass p src extra)[i] = xorLanes (fun j => laneLookup p j (byte src[i - j] j)) ^^^ extra[i] := by
  have hlanes : xorLanes (fun j => laneLookup p j (byte src[i - j] j)) =
      lookup p 0 (byte src[i - 0] 0) ^^^ lookup p 1 (byte src[i - 1] 1)
        ^^^ lookup p 2 (byte src[i - 2] 2) ^^^ lookup p 3 (byte src[i - 3] 3)
        ^^^ swap32 (lookup p 0 (byte src[i - 4] 4)) ^^^ swap32 (lookup p 1 (byte src[i - 5] 5))
        ^^^ swap32 (lookup p 2 (byte src[i - 6] 6)) ^^^ swap32 (lookup p 3 (byte src[i - 7] 7)) :=
    xorLanes_eq _
  rw [rpass_getElem_gatherW hp, hlanes]
  simp only [swap32_xor, sub_zero]
  ac_rfl

theorem rpass_xor_rpass : (rpass p src extra)[i] ^^^ (rpass p src' extra)[i] =
    xorLanes fun j => laneLookup p j (byte src[i - j] j) ^^^ laneLookup p j (byte src'[i - j] j) := by
  rw [rpass_getElem_lanes hp, rpass_getElem_lanes hp, xor_xor_xor_cancel_right, xorLanes_xor_xorLanes]

end

/-! ## Two sources that differ in one byte -/

section
variable {p : Params} {src src' : Words} {w l : Fin 8} (hp : p.GATHER = gatherW)
  (h : ∀ w' l' : Fin 8, (w', l') ≠ (w, l) → byte src[w'] l' = byte src'[w'] l') (extra : Words)
include hp h

theorem rpass_eq_of_ne_add {i : Fin 8} (hi : i ≠ w + l) : (rpass p src extra)[i] = (rpass p src' extra)[i] := by
  have hbytes (j : Fin 8) : byte src[i - j] j = byte src'[i - j] j := by
    refine h _ _ fun hpos => hi ?_
    obtain ⟨rfl, rfl⟩ := Prod.mk.inj hpos
    exact (sub_add_cancel i j).symm
  simp only [rpass_getElem_lanes hp, hbytes]

theorem rpass_xor_rpass_add : (rpass p src extra)[w + l] ^^^ (rpass p src' extra)[w + l] =
    laneLookup p l (byte src[w] l) ^^^ laneLookup p l (byte src'[w] l) := by
  rw [rpass_xor_rpass hp, xorLanes_of_eq_zero_off l]
  · simp only [add_sub_cancel_right]
  · intro j hj
    rw [h _ j fun hpos => hj (Prod.mk.inj hpos).2]
    exact BitVec.xor_self

end

/-! ## The lanes under instantiation W -/

theorem castLE_ofNat_four : ∀ l : Fin 8,
    Fin.castLE (by decide : 4 ≤ 8) (Fin.ofNat 4 l.val) = if l.val < 4 then l else l - 4 := by
  decide

theorem byte_lookup_paramsW (k : Fin 4) (b : Byte) (c : Fin 8) :
    byte (lookup paramsW k b) c = byte (lookup paramsW 0 b) (c - Fin.castLE (by decide) k) := by
  rw [lookup_paramsW_eq_rotr64]
  exact byte_rotr64 _ (Fin.castLE (by decide) k) c

/-- The table's rotation by `l mod 4` bytes and the half swap together move a lane `l` places on. -/
theorem byte_laneLookup_paramsW (l c : Fin 8) (b : Byte) :
    byte (laneLookup paramsW l b) c = byte (lookup paramsW 0 b) (c - l) := by
  rw [laneLookup]
  split
  · next hl => rw [id, byte_lookup_paramsW, castLE_ofNat_four, if_pos hl]
  · next hl => rw [byte_swap32, byte_lookup_paramsW, castLE_ofNat_four, if_neg hl, sub_sub_sub_cancel_right]

theorem laneLookup_paramsW (l : Fin 8) (b : Byte) :
    laneLookup paramsW l b = rotr64 (lookup paramsW 0 b) (8 * l.val) := word_ext_lanes fun c => by
  rw [byte_laneLookup_paramsW, byte_rotr64]

/-- A lane of the base table is the substituted byte times an entry of the diffusion row (R89). -/
theorem byte_lookup_paramsW_zero (b : Byte) (c : Fin 8) :
    byte (lookup paramsW 0 b) c = mul (entry SBOX b) (diffusionRow.get c) := by
  rw [lookup_paramsW_zero, entry_T0, baseFromSbox, byte_be64]

/-- On a finite type a function that takes every value takes none twice (R92). -/
theorem entry_SBOX_injective : Function.Injective (entry SBOX) :=
  Finite.injective_iff_surjective.mpr fun v => ⟨sboxInverse v, by rw [entry_SBOX, sboxFromMini_sboxInverse]⟩

/-- Lane `l` of what a byte of lane `l` adds is the substituted byte itself: the diffusion row begins with 1. -/
theorem laneLookup_paramsW_injective (l : Fin 8) : Function.Injective (laneLookup paramsW l) := fun a b hab => by
  have hlane (x : Byte) : byte (laneLookup paramsW l x) l = entry SBOX x := by
    rw [byte_laneLookup_paramsW, sub_self, byte_lookup_paramsW_zero]
    rfl
  exact entry_SBOX_injective (by rw [← hlane, ← hlane, hab])

end Sys2Proof.Machine
end

section
/-! PROOFS. The statements of 41_round_pass.md. -/

namespace Sys2Proof.Machine

/-- Settles O16 (R103). -/
theorem roundPassFormula : Obligations.RoundPassFormula := fun _ src extra i hp => rpass_getElem_gatherW hp src extra i

/-- Settles O18 (R102): the word is a sum over the lanes, in which one term at most differs. -/
theorem sourceByteFeedsOneWord : Obligations.SourceByteFeedsOneWord := by
  intro p src src' extra w l i hp h
  refine ⟨rpass_eq_of_ne_add hp h extra, ?_, ?_⟩
  · rintro rfl
    rw [rpass_xor_rpass_add hp h, laneLookup_xor_laneLookup]
  · rintro rfl rfl hne heq
    refine hne (laneLookup_paramsW_injective l ?_)
    rw [← BitVec.xor_eq_zero_iff, ← rpass_xor_rpass_add hp h extra, heq, BitVec.xor_self]

/-- Settles O19 (R108): with W a byte of lane `j` adds its entry of the base table rotated right by `j` bytes. -/
theorem eightTableForm : Obligations.EightTableForm := by
  intro src extra i
  rw [rpass_getElem_lanes rfl]
  simp only [laneLookup_paramsW]
  rfl

/-- Settles O20 (R109): the lanes of an entry of the base table are the products with the diffusion row. -/
theorem byteMatrixForm : Obligations.ByteMatrixForm := by
  intro src i c
  have hzero : zeroWords[i] = 0#64 := zeroWords_getElem i i.isLt
  rw [rpass_getElem_lanes rfl, hzero, BitVec.xor_zero, byte_xorLanes]
  simp only [byte_laneLookup_paramsW, byte_lookup_paramsW_zero]
  rfl

/-- Settles O21: in the sum over the lanes the source words stand relative to the output word (R102). -/
theorem roundPassWordRotation : Obligations.RoundPassWordRotation := by
  intro p src extra src' extra' hp h i
  have hsrc (j : Fin 8) : src'[i - j] = src[i + 1 - j] := by
    rw [(h (i - j)).1]
    simp only [sub_add_eq_add_sub]
  simp only [rpass_getElem_lanes hp, hsrc, (h i).2]

/-- Settles O17 (R105): the extra term is the last summand of a word, and no lookup takes it. -/
theorem extraTermIsLinear : Obligations.ExtraTermIsLinear := by
  intro p src extra i
  simp only [Fin.getElem_fin, rpass_getElem, zeroWords_getElem, BitVec.ofNat_eq_ofNat, BitVec.xor_zero]

end Sys2Proof.Machine
end

section
/-! PROOFS. The key step word by word (R111) and the sequence of round keys (R112, R113). -/

namespace Sys2Proof.Machine

/-- The extra term of the key step is `RC[r]` in word 0 and zero in every other word, and the extra term is linear. -/
theorem kstep_getElem (p : Params) (K : Words) (r : Fin 11) (i : Fin 8) :
    (kstep p K r)[i] = (rpass p K zeroWords)[i] ^^^ if i = 0 then p.RC.get r else 0 := by
  have hextra : (#v[p.RC.get r, 0, 0, 0, 0, 0, 0, 0] : Words)[i] = if i = 0 then p.RC.get r else 0 := by
    fin_cases i <;> rfl
  rw [kstep, extraTermIsLinear, hextra]

/-- A round reads the key register and the round index for the next key, and neither the block nor the state. -/
theorem Work.run_K_RND_congr (p : Params) {w w' : Work} (hK : w.K = w'.K) (hRND : w.RND = w'.RND) (n : Nat) :
    (w.run p n).K = (w'.run p n).K ∧ (w.run p n).RND = (w'.run p n).RND := by
  induction n with
  | zero => exact ⟨hK, hRND⟩
  | succ n ih =>
    obtain ⟨ihK, ihRND⟩ := ih
    simp only [Work.run_succ, Work.round_K, Work.round_RND, ihK, ihRND, and_self]

/-- Round `n + 1` uses the round constant of its own number (R112): the round index has not wrapped. -/
theorem Work.run_load_K_succ (p : Params) (H B : Words) {n : Nat} (h : n < 10) :
    ((Work.load H B).run p (n + 1)).K = kstep p ((Work.load H B).run p n).K ⟨n + 1, by omega⟩ := by
  have hindex : ((Work.load H B).run p n).RND + 1 = ⟨n + 1, by omega⟩ := by
    rw [← Work.run_load_RND p H B h, Work.run_succ, Work.round_RND]
  rw [Work.run_succ, Work.round_K, hindex]

end Sys2Proof.Machine
end

section
/-! PROOFS. The statements of 42_round_key_schedule.md. -/

namespace Sys2Proof.Machine

/-- Settles O22 (R111). -/
theorem keyStepFoldsRoundConstantIntoWordZero : Obligations.KeyStepFoldsRoundConstantIntoWordZero := by
  intro p K r
  refine ⟨rfl, kstep_getElem p K r 0, fun i hi => ?_⟩
  rw [kstep_getElem, if_neg hi]
  exact BitVec.xor_zero

/-- Settles O23 (R112, R113): the two loads agree in the key register and the round index. -/
theorem roundKeysIgnoreTheBlock : Obligations.RoundKeysIgnoreTheBlock := by
  intro p H B B' n hn
  have hkeys := Work.run_K_RND_congr p (w := Work.load H B) (w' := Work.load H B') rfl rfl n
  refine ⟨hkeys.1, ?_, ?_⟩
  · rw [Work.run_load_RND p H B hn.le]
  · rintro ⟨_, _⟩ rfl
    exact Work.run_load_K_succ p H B hn

end Sys2Proof.Machine
end

section
/-! PROOFS. The working registers after `n` rounds, for any key and state sequences (R120, R121) and under instantiation
Z; the block of a payload; the length counter of `ABSORB` as two halves (R126). -/

namespace Sys2Proof.Machine

/-! ## The rounds -/

/-- `n` rounds leave the `n`-th key and the `n`-th state of any sequences that start as R120
says and step as R121 says. -/
theorem Work.run_load_eq_sequences {p : Params} {H B : Words} {K S : Nat → Words} (hK : K 0 = H)
    (hS : S 0 = xorWords B H)
    (hround : ∀ r : Fin 11, r ≠ 0 →
      K r.val = kstep p (K (r.val - 1)) r ∧ S r.val = rpass p (S (r.val - 1)) (K r.val))
    {n : Nat} (h : n ≤ 10) : ((Work.load H B).run p n).K = K n ∧ ((Work.load H B).run p n).S = S n := by
  induction n with
  | zero => exact ⟨hK.symm, hS.symm⟩
  | succ n ih =>
    obtain ⟨ihK, ihS⟩ := ih (Nat.le_of_succ_le h)
    obtain ⟨hKr, hSr⟩ := hround ⟨n + 1, by omega⟩ (Fin.ne_of_val_ne n.succ_ne_zero)
    have hkey : ((Work.load H B).run p (n + 1)).K = K (n + 1) := by
      rw [Work.run_load_K_succ p H B h, ihK, hKr, Nat.add_sub_cancel]
    refine ⟨hkey, ?_⟩
    rw [Work.run_succ, Work.round_S, ← Work.run_succ, hkey, ihS, hSr, Nat.add_sub_cancel]

/-- A key step without tables is its extra term (95_test_vectors.md section 6). -/
theorem kstep_paramsZ_getElem (K : Words) (r : Fin 11) (i : Fin 8) :
    (kstep paramsZ K r)[i] = if i = 0 then roundConstants.get r else 0 := by
  have hzero : zeroWords[i] = 0#64 := zeroWords_getElem i i.isLt
  rw [kstep_getElem, rpass_paramsZ, hzero, BitVec.zero_xor]
  rfl

/-- Without tables the state after a round is the key of that round, whatever was there before. -/
theorem Work.round_paramsZ_S (w : Work) : (w.round paramsZ).S = kstep paramsZ w.K (w.RND + 1) := by
  rw [Work.round_S, rpass_paramsZ, Work.round_K]

/-- Ten rounds without tables leave the last round constant: each round overwrites key and state (R121). -/
theorem Work.run_paramsZ_S_getElem (H B : Words) (i : Fin 8) :
    ((Work.load H B).run paramsZ 10).S[i] = if i = 0 then 0xCA2DBF07AD5A8333 else 0 := by
  have hindex : ((Work.load H B).run paramsZ 9).RND + 1 = 10 := by
    rw [Work.run_load_RND paramsZ H B (by decide)]
    rfl
  have hRC : roundConstants.get 10 = 0xCA2DBF07AD5A8333 := rfl
  rw [Work.run_succ, Work.round_paramsZ_S, hindex, kstep_paramsZ_getElem, hRC]

/-! ## The block of a payload -/

theorem blockOf_eq {l : List Byte} {M : Block} (h : ∀ n : Fin 64, l[n.val]? = some M[n]) : blockOf l = M := by
  ext1 n hn
  rw [blockOf_getElem, List.getD_eq_getElem?_getD, h ⟨n, hn⟩]
  rfl

/-! ## The length counter and its halves -/

theorem toNat_add_blockBits (v : BitVec 128) : (v + Config.blockBits).toNat = (v.toNat + 512) % 2 ^ 128 :=
  BitVec.toNat_add v Config.blockBits

theorem lo64_add_blockBits_toNat (v : BitVec 128) :
    (lo64 (v + Config.blockBits)).toNat = ((lo64 v).toNat + 512) % 2 ^ 64 := by
  rw [lo64_toNat, lo64_toNat, toNat_add_blockBits]
  omega

/-- The high half takes the carry out of the low half, and drops its own (R126). -/
theorem hi64_add_blockBits_toNat (v : BitVec 128) : (hi64 (v + Config.blockBits)).toNat =
    if (lo64 v).toNat + 512 ≥ 2 ^ 64 then ((hi64 v).toNat + 1) % 2 ^ 64 else (hi64 v).toNat := by
  have hv := v.isLt
  rw [hi64_toNat, hi64_toNat, lo64_toNat, toNat_add_blockBits]
  split <;> omega

end Sys2Proof.Machine
end

section
/-! PROOFS. The statements of 43_block_transform.md. -/

namespace Sys2Proof.Machine

/-- Settles O24 (R120, R121, R123): after ten rounds the state register holds `S 10`, and the feed-forward is applied
to it. -/
theorem transformIsTenRoundsAndFeedForward : Obligations.TransformIsTenRoundsAndFeedForward := by
  intro p H B K S hK hS hround i
  have hstart : S 0 = xorWords B H := by
    ext1 j hj
    rw [xorWords_getElem, ← hK]
    exact hS ⟨j, hj⟩
  obtain ⟨-, hlast⟩ := Work.run_load_eq_sequences hK hstart hround (le_refl 10)
  simp only [Fin.getElem_fin, xform_getElem, Config.rounds, hlast]

/-- Settles O25 (R128): the overwritten digest is the first two summands of the feed-forward, in another order. -/
theorem inPlaceTransformAgrees : Obligations.InPlaceTransformAgrees := by
  rintro p H B _ _ _ _ rfl rfl rfl rfl
  ext1 i hi
  rw [xform_getElem, xorWords_getElem, xorWords_getElem, BitVec.xor_comm, BitVec.xor_assoc]
  rfl

/-- Settles O26: the last state is the last round constant, and the feed-forward adds block and digest. -/
theorem zeroTablesExposeThePlumbing : Obligations.ZeroTablesExposeThePlumbing := by
  intro H B i
  have hlast := Work.run_paramsZ_S_getElem H B i
  simp only [Fin.getElem_fin] at hlast ⊢
  rw [xform_getElem, Config.rounds, hlast]
  ac_rfl

/-- Settles O27 (R125): the operations of `ABSORB` that follow the transform leave its digest alone, and none of them
writes `BUF`, the constants or the port. -/
theorem absorbCompletes : Obligations.AbsorbCompletes := by
  intro s m M hlen hbytes
  obtain rfl := blockOf_eq hbytes
  have hnext := exec_absorb_of_length s hlen
  exact ⟨_, hnext, exec_absorb_H hnext, toNat_add_blockBits s.LEN, rfl, rfl, rfl, rfl⟩

/-- Settles O28 (R126): `LEN` takes 512 more, and its halves follow. -/
theorem absorbCarriesBetweenLengthHalves : Obligations.AbsorbCarriesBetweenLengthHalves := fun s _ hlen =>
  ⟨_, exec_absorb_of_length s hlen, rfl, lo64_add_blockBits_toNat s.LEN, hi64_add_blockBits_toNat s.LEN⟩

end Sys2Proof.Machine
end

section
/-! PROOFS. Padding (44_padding_finalizer.md R142 to R145): the total length as arithmetic, the zero fill, the one or
two padding blocks as windows on the padded tail. -/

namespace Sys2Proof.Machine

/-! ## The total length -/

theorem totalBits_toNat (LEN : BitVec 128) (L : BitVec 6) :
    (totalBits LEN L).toNat = (LEN.toNat + 8 * L.toNat) % 2 ^ 128 := by
  have h8 : (8 : BitVec 128).toNat = 8 := rfl
  simp only [totalBits, BitVec.toNat_add, BitVec.toNat_mul, BitVec.toNat_setWidth, h8]
  omega

/-- The largest multiple of 512 below `2^128` leaves room for the 504 bits of a tail: the reduction never acts. -/
theorem totalBits_toNat_of_dvd {LEN : BitVec 128} (L : BitVec 6) (h : 512 ∣ LEN.toNat) :
    (totalBits LEN L).toNat = LEN.toNat + 8 * L.toNat := by
  have hLEN := LEN.isLt
  have hL := L.isLt
  rw [totalBits_toNat]
  omega

/-- The whole blocks and the tail of `n` bytes are `n` bytes, to the width of the counter. -/
theorem totalBits_of_length (n : Nat) :
    totalBits (BitVec.ofNat 128 (512 * (n / 64))) (BitVec.ofNat 6 (n % 64)) = BitVec.ofNat 128 (8 * n) := by
  apply BitVec.eq_of_toNat_eq
  simp only [totalBits_toNat, BitVec.toNat_ofNat]
  omega

/-! ## The zero fill -/

theorem padZeros_eq_emod (L : Nat) : (padZeros L : Int) = (31 - (L : Int)) % 64 := by
  unfold padZeros
  omega

theorem padZeros_leaves_32_free (L : Nat) : (L + 1 + padZeros L) % 64 = 32 := by
  unfold padZeros
  omega

theorem padZeros_le_of_leaves_32_free {L z : Nat} (h : (L + 1 + z) % 64 = 32) : padZeros L ≤ z := by
  unfold padZeros
  omega

/-! ## The padding blocks -/

theorem pad_length_of_le_31 {tail : List Byte} (tot : BitVec 128) (h : tail.length ≤ 31) :
    (pad tail tot).length = 64 := by
  rw [pad_length_eq tot (by omega), if_pos h]

theorem pad_length_of_ge_32 {tail : List Byte} (tot : BitVec 128) (h : 32 ≤ tail.length) (h' : tail.length ≤ 63) :
    (pad tail tot).length = 128 := by
  rw [pad_length_eq tot h', if_neg (by omega)]

/-- A block reads 64 bytes of its list. -/
theorem blockOf_take (l : List Byte) : blockOf (l.take 64) = blockOf l := by
  ext1 n hn
  simp only [blockOf_getElem, List.getD_eq_getElem?_getD, List.getElem?_take_of_lt hn]

theorem padBlocks_of_le_31 {tail : List Byte} (tot : BitVec 128) (h : tail.length ≤ 31) :
    padBlocks tail tot = [blockOf (pad tail tot)] := by
  simp only [padBlocks, blocks, pad_length_of_le_31 tot h, Nat.reduceDiv, chunks, List.map_cons,
    List.map_nil, blockOf_take]

theorem padBlocks_of_ge_32 {tail : List Byte} (tot : BitVec 128) (h : 32 ≤ tail.length) (h' : tail.length ≤ 63) :
    padBlocks tail tot = [blockOf (pad tail tot), blockOf ((pad tail tot).drop 64)] := by
  simp only [padBlocks, blocks, pad_length_of_ge_32 tot h h', Nat.reduceDiv, chunks, List.map_cons,
    List.map_nil, blockOf_take]

/-- Byte `n` of the one block of a short tail (R145). -/
theorem blockOf_pad_getElem_of_le_31 {tail : List Byte} (tot : BitVec 128) (h : tail.length ≤ 31) {n : Nat}
    (hn : n < 64) : (blockOf (pad tail tot))[n] =
      if n < tail.length then tail.getD n 0 else if n = tail.length then 0x80
      else if n < 48 then 0 else tot.extractLsb' (120 - 8 * (n - 48)) 8 := by
  have hlen := pad_length_of_le_31 tot h
  have hzero : n + 16 < 64 ↔ n < 48 := by omega
  rw [blockOf_getElem, pad_getD _ _ (by omega), hlen, Nat.add_sub_add_right n 16 48]
  simp only [hzero]

/-- Byte `n` of the first of the two blocks of a long tail: none of the length is in it (R145). -/
theorem blockOf_pad_getElem_of_ge_32 {tail : List Byte} (tot : BitVec 128) (h : 32 ≤ tail.length)
    (h' : tail.length ≤ 63) {n : Nat} (hn : n < 64) : (blockOf (pad tail tot))[n] =
      if n < tail.length then tail.getD n 0 else if n = tail.length then 0x80 else 0 := by
  have hlen := pad_length_of_ge_32 tot h h'
  have hzero : n + 16 < 128 := by omega
  rw [blockOf_getElem, pad_getD _ _ (by omega), hlen, if_pos hzero]

/-- Byte `n` of the second of the two blocks of a long tail: the tail and the marker are behind it (R145). -/
theorem blockOf_drop_pad_getElem {tail : List Byte} (tot : BitVec 128) (h : 32 ≤ tail.length)
    (h' : tail.length ≤ 63) {n : Nat} (hn : n < 64) : (blockOf ((pad tail tot).drop 64))[n] =
      if n < 48 then 0 else tot.extractLsb' (120 - 8 * (n - 48)) 8 := by
  have hlen := pad_length_of_ge_32 tot h h'
  have hzero : 64 + n + 16 < 128 ↔ n < 48 := by omega
  have hoffset : 64 + n + 16 - 128 = n - 48 := by omega
  have hbyte : ((pad tail tot).drop 64).getD n 0 = (pad tail tot).getD (64 + n) 0 := by
    simp only [List.getD_eq_getElem?_getD, List.getElem?_drop]
  rw [blockOf_getElem, hbyte, pad_getD _ _ (by omega), if_neg (by omega), if_neg (by omega), hlen, hoffset]
  simp only [hzero]

end Sys2Proof.Machine
end

section
/-! PROOFS. A completed `FINAL` and `INIT` (R147 to R150), and a whole message through the command port (R157, R73). -/

namespace Sys2Proof.Machine

/-! ## The output of `FINAL` -/

theorem outputBytes_getElem? (H : Words) {N : BitVec 8} {n : Nat} (hn : n < N.toNat) (hN : N.toNat ≤ 64) :
    (outputBytes H N)[n]? = (H[n / 8]?).map fun w => byte w (Fin.ofNat 8 (n % 8)) := by
  have hlane : Fin.ofNat 8 (n % 8) = ⟨n % 8, Nat.mod_lt n (by decide)⟩ := Fin.ext (Nat.mod_mod n 8)
  rw [outputBytes, List.getElem?_take_of_lt hn, Vector.getElem?_toList, Vector.getElem?_eq_getElem (by omega),
    Vector.getElem?_eq_getElem (by omega), bytes_getElem, hlane]
  rfl

theorem outputBytes_take (H : Words) {N₁ N₂ : BitVec 8} (h : N₁.toNat ≤ N₂.toNat) :
    (outputBytes H N₂).take N₁.toNat = outputBytes H N₁ := by
  rw [outputBytes, List.take_take, Nat.min_eq_left h, outputBytes]

/-- A legal `FINAL`: whatever `N` is, the state but for the response is the same, and the response is the first `N`
bytes of the digest after the padding blocks (R147, R148). -/
theorem exec_final_eq {L : BitVec 6} {N : BitVec 8} {tail : List Byte} (s : State) (h : tail.length = L.toNat)
    (hN : 1 ≤ N.toNat ∧ N.toNat ≤ 64) :
    exec (.final L N tail) s = .next { (finalDigest L tail s).clear.releaseWork with
      rsps := s.rsps ++
        [⟨.ok, N.toNat, outputBytes (compress s.par s.H (padBlocks tail (totalBits s.LEN L))) N⟩] } := by
  rw [exec_final_of_legal s h hN, okResponse_outputBytes hN.2, finalDigest_H, State.respond, State.releaseWork_rsps,
    State.clear_rsps, finalDigest_rsps]

/-! ## The fresh state -/

theorem State.Fresh.clear_eq {s : State} (h : s.Fresh) : s.clear = s := by
  rw [State.clear, ← h.H, ← h.LEN, ← h.BUF]

/-! ## The whole blocks of a message -/

/-- `H` and `LEN` are those of a machine that was cleared and has absorbed the whole blocks of `M` (R157). -/
structure State.HasAbsorbed (s : State) (M : List Byte) : Prop where
  H : s.H = compress s.par zeroWords (blocks M)
  LEN : s.LEN = BitVec.ofNat 128 (512 * (M.length / 64))

theorem State.Fresh.hasAbsorbed_nil {s : State} (h : s.Fresh) : s.HasAbsorbed [] := ⟨h.H, h.LEN⟩

/-- The padding blocks of the rest of the message complete its digest. -/
theorem State.HasAbsorbed.outputBytes_eq {s : State} {M : List Byte} (h : s.HasAbsorbed M) (N : BitVec 8) :
    outputBytes (compress s.par s.H
      (padBlocks (messageTail M) (totalBits s.LEN (BitVec.ofNat 6 (M.length % 64))))) N =
      (messageDigest s.par M).toList.take N.toNat := by
  rw [h.H, h.LEN, totalBits_of_length, ← compress_append, outputBytes, messageDigest]

theorem messageTail_length (M : List Byte) : (messageTail M).length = (BitVec.ofNat 6 (M.length % 64)).toNat := by
  rw [messageTail, List.length_drop, BitVec.toNat_ofNat]
  omega

/-- `FINAL` with the rest of a message whose whole blocks are absorbed answers with the message's digest. -/
theorem State.HasAbsorbed.exec_final {s : State} {M : List Byte} (h : s.HasAbsorbed M) {N : BitVec 8}
    (hN : 1 ≤ N.toNat ∧ N.toNat ≤ 64) :
    ∃ t, exec (.final (BitVec.ofNat 6 (M.length % 64)) N (messageTail M)) s = .next t ∧ t.Fresh ∧ t.par = s.par ∧
      t.cmds = s.cmds ∧
      t.rsps = s.rsps ++ [⟨.ok, N.toNat, (messageDigest s.par M).toList.take N.toNat⟩] := by
  refine ⟨_, exec_final_eq s (messageTail_length M) hN, ⟨rfl, rfl, rfl⟩, ?_, ?_, ?_⟩
  · exact finalDigest_par _ _ s
  · exact finalDigest_cmds _ _ s
  · rw [h.outputBytes_eq]

/-! ## Commands on the port -/

theorem absorb_wf {m : List Byte} (h : m.length = 64) : (Instr.absorb m).wf = true := beq_iff_eq.mpr h

theorem final_wf {L : BitVec 6} (N : BitVec 8) {tail : List Byte} (h : tail.length = L.toNat) :
    (Instr.final L N tail).wf = true := beq_iff_eq.mpr h

/-- A step takes the first presented command off the port and runs it. -/
theorem step_of_present {s : State} {i : Instr} {is : List Instr} {rest : List PortEvent} (hi : i.wf = true)
    (hc : s.cmds = present (i :: is) ++ rest) : step s = exec i { s with cmds := present is ++ rest } :=
  step_of_instr hc (decodeOfEncode i hi)

theorem step_init_of_present {s : State} {is : List Instr} {rest : List PortEvent}
    (hc : s.cmds = present (.init :: is) ++ rest) : ∃ t, step s = .next t ∧ t.Fresh ∧ t.par = s.par ∧
      t.cmds = present is ++ rest ∧ t.rsps = s.rsps ++ [⟨.ok, 0, []⟩] :=
  ⟨_, step_of_present rfl hc, ⟨rfl, rfl, rfl⟩, rfl, rfl, rfl⟩

theorem State.HasAbsorbed.step_final_of_present {s : State} {M : List Byte} (h : s.HasAbsorbed M) {N : BitVec 8}
    (hN : 1 ≤ N.toNat ∧ N.toNat ≤ 64) {rest : List PortEvent}
    (hc : s.cmds = present [.final (BitVec.ofNat 6 (M.length % 64)) N (messageTail M)] ++ rest) :
    ∃ t, step s = .next t ∧ t.Fresh ∧ t.par = s.par ∧ t.cmds = rest ∧
      t.rsps = s.rsps ++ [⟨.ok, N.toNat, (messageDigest s.par M).toList.take N.toNat⟩] := by
  rw [step_of_present (final_wf N (messageTail_length M)) hc]
  exact State.HasAbsorbed.exec_final (s := { s with cmds := rest }) ⟨h.H, h.LEN⟩ hN

/-- `t` is `s` after an `ABSORB` for each of the blocks `ms`, in order, as far as a later command can see, with their
responses. -/
structure State.Absorbs (s : State) (ms : List (List Byte)) (t : State) : Prop where
  H : t.H = compress s.par s.H (ms.map blockOf)
  LEN : t.LEN = s.LEN + BitVec.ofNat 128 (512 * ms.length)
  par : t.par = s.par
  rsps : t.rsps = s.rsps ++ List.replicate ms.length ⟨.ok, 0, []⟩

theorem State.Absorbs.nil (s : State) : s.Absorbs [] s :=
  ⟨rfl, (BitVec.add_zero s.LEN).symm, rfl, (List.append_nil s.rsps).symm⟩

theorem State.Absorbs.cons {s u t : State} {m : List Byte} {ms : List (List Byte)} {cmds : List PortEvent}
    (hu : exec (.absorb m) { s with cmds } = .next u) (h : u.Absorbs ms t) : s.Absorbs (m :: ms) t := by
  obtain ⟨-, rfl⟩ := execAbsorb_inv hu
  obtain ⟨hH, hLEN, hpar, hrsps⟩ := h
  refine ⟨by simpa using hH, ?_, by simpa using hpar, ?_⟩
  · rw [hLEN, List.length_cons, Nat.mul_succ, Nat.add_comm (512 * ms.length), BitVec.ofNat_add, ← BitVec.add_assoc]
    rfl
  · rw [hrsps, List.length_cons, List.replicate_succ, List.append_cons]
    rfl

/-- The whole blocks of a message, absorbed from the fresh state. -/
theorem State.Absorbs.hasAbsorbed {s t : State} {M : List Byte} (h : s.Absorbs (chunks (M.length / 64) M) t)
    (hs : s.Fresh) : t.HasAbsorbed M := by
  refine ⟨?_, ?_⟩
  · rw [h.H, h.par, hs.H, blocks]
  · rw [h.LEN, hs.LEN, chunks_length]
    exact BitVec.zero_add _

/-- A run through presented `ABSORB`s, one step each. -/
theorem run_absorbs {ms : List (List Byte)} (hms : ∀ m ∈ ms, m.length = 64) {s : State} {is : List Instr}
    {rest : List PortEvent} (hc : s.cmds = present (ms.map .absorb ++ is) ++ rest) (k : Nat) :
    ∃ t, Host.Core.run core (k + ms.length) s = Host.Core.run core k t ∧ s.Absorbs ms t ∧
      t.cmds = present is ++ rest := by
  induction ms generalizing s with
  | nil => exact ⟨s, rfl, .nil s, hc⟩
  | cons m ms ih =>
    obtain ⟨hm, hms⟩ := List.forall_mem_cons.mp hms
    obtain ⟨u, hexec, hu⟩ : ∃ u, exec (.absorb m) { s with cmds := present (ms.map .absorb ++ is) ++ rest } =
        .next u ∧ u.cmds = present (ms.map .absorb ++ is) ++ rest := ⟨_, exec_absorb_of_length _ hm, rfl⟩
    have hstep := (step_of_present (absorb_wf hm) hc).trans hexec
    obtain ⟨t, hrun, habs, hcmds⟩ := ih hms hu
    exact ⟨t, (run_succ_of_next hstep).trans hrun, .cons hexec habs, hcmds⟩

end Sys2Proof.Machine
end

section
/-! PROOFS. The statements of 44_padding_finalizer.md. -/

namespace Sys2Proof.Machine

/-- Settles O29 (R142): the sum as arithmetic; a multiple of 512 keeps the 9 low bits for the tail. -/
theorem totalLengthInBits : Obligations.TotalLengthInBits := by
  refine ⟨totalBits_toNat, fun LEN L hdvd => ?_, fun n hn => ?_⟩
  · have hsum := totalBits_toNat_of_dvd L hdvd
    have hL := L.isLt
    refine ⟨hsum, ?_, BitVec.eq_of_toNat_eq ?_⟩
    · simp only [BitVec.extractLsb'_toNat, hsum, Nat.shiftRight_zero]
      omega
    · simp only [BitVec.extractLsb'_toNat, hsum, Nat.shiftRight_eq_div_pow]
      omega
  · rw [totalBits_of_length, BitVec.toNat_ofNat, Nat.mod_eq_of_lt hn]

/-- Settles O30 (R143): the zero fill of `PAD` is the least one, for every tail. -/
theorem paddingLeaves32BytesFree : Obligations.PaddingLeaves32BytesFree := fun tail tot h =>
  ⟨padZeros tail.length, padZeros_eq_emod _, padZeros_leaves_32_free _, fun _ => padZeros_le_of_leaves_32_free, rfl,
    pad_length tail tot, pad_length_eq tot h⟩

/-- Settles O31 (R144, R145): each block is a window on the padded tail. -/
theorem paddingBlockLayout : Obligations.PaddingBlockLayout := fun _ tot h63 =>
  ⟨fun h => ⟨_, padBlocks_of_le_31 tot h, fun n => blockOf_pad_getElem_of_le_31 tot h n.isLt⟩,
    fun h => ⟨_, _, padBlocks_of_ge_32 tot h h63, fun n => blockOf_pad_getElem_of_ge_32 tot h h63 n.isLt,
      fun n => blockOf_drop_pad_getElem tot h h63 n.isLt⟩⟩

/-- Settles O33 (R140, R147): the digest is the compression of the padding blocks, of which there are one or two. -/
theorem finalCompletes : Obligations.FinalCompletes := by
  intro s L N tail hlen hmin hmax
  refine ⟨_, _, _, exec_final_eq s hlen ⟨hmin, hmax⟩, fun h => ?_, fun h => ?_, outputBytes_length hmax,
    fun n hn => outputBytes_getElem? _ hn hmax, rfl, rfl, rfl, rfl, finalDigest_par L tail s,
    finalDigest_cmds L tail s⟩
  · have hblocks := padBlocks_of_le_31 (totalBits s.LEN L) h
    exact ⟨_, hblocks, by rw [hblocks, compress_cons, compress_nil]⟩
  · have hL := L.isLt
    have hblocks := padBlocks_of_ge_32 (totalBits s.LEN L) h (by omega)
    exact ⟨_, _, hblocks, by rw [hblocks, compress_cons, compress_cons, compress_nil]⟩

/-- Settles O35 (R148): both outputs are cut from one digest. -/
theorem truncationIsAPrefix : Obligations.TruncationIsAPrefix := by
  intro s L N₁ N₂ tail hlen h₁ h₁₂ h₂
  refine ⟨_, _, outputBytes_length h₂, exec_final_eq s hlen ⟨h₁.trans h₁₂, h₂⟩, ?_⟩
  rw [outputBytes_take _ h₁₂]
  exact exec_final_eq s hlen ⟨h₁, h₁₂.trans h₂⟩

/-- Settles O36 (R150): `INIT` is a clear and a response. -/
theorem initCompletes : Obligations.InitCompletes := fun s =>
  ⟨s.clear.respond (okResponse []), rfl, rfl, fun hs => by rw [hs.clear_eq]; rfl, ⟨rfl, rfl, rfl, rfl⟩,
    ⟨rfl, rfl, rfl, rfl⟩⟩

/-- Settles O37 (R149): a completed `FINAL` leaves a machine that has absorbed nothing, which is where the digest of
the empty message starts. -/
theorem digestIsDeliveredOnce : Obligations.DigestIsDeliveredOnce := by
  intro s L N N' tail hlen hmin hmax hmin' hmax'
  obtain ⟨t, _, _, hfirst, -, -, -, -, -, hH, hLEN, hBUF, hpar, -⟩ := finalCompletes s L N tail hlen hmin hmax
  have hempty := State.Fresh.hasAbsorbed_nil ⟨hH, hLEN, hBUF⟩
  obtain ⟨u, hsecond, -, -, -, hrsps⟩ := hempty.exec_final ⟨hmin', hmax'⟩
  refine ⟨t, u, _, hfirst, hH, hLEN, hBUF, hsecond, hrsps, rfl, rfl, ?_⟩
  rw [hpar]

/-- Settles O38 (R157, R73, R202): `INIT` clears, the `ABSORB`s compress the whole blocks, `FINAL` does the rest. The
length premise is not used: `LEN` and the digest's length field are both counted modulo `2^128`. -/
theorem hashOfWholeMessage : Obligations.HashOfWholeMessage := by
  intro s N M rest hmin hmax _ hc
  have hwhole : ∀ m ∈ chunks (M.length / 64) M, m.length = 64 :=
    fun _ => length_of_mem_chunks (Nat.mul_div_le M.length 64)
  obtain ⟨u, hinit, hfresh, hpar, hcmds, hrsps⟩ := step_init_of_present hc
  obtain ⟨v, habsorbs, hv, hvcmds⟩ := run_absorbs hwhole hcmds 1
  obtain ⟨t, hfinal, htfresh, htpar, htcmds, htrsps⟩ :=
    (hv.hasAbsorbed hfresh).step_final_of_present ⟨hmin, hmax⟩ hvcmds
  refine ⟨t, ?_, htfresh, ?_, htcmds, ?_⟩
  · rw [chunks_length, Nat.add_comm 1] at habsorbs
    rw [run_succ_of_next hinit, habsorbs, run_succ_of_next hfinal]
    rfl
  · rw [htpar, hv.par, hpar]
  · rw [htrsps, hv.rsps, hrsps, hv.par, hpar, chunks_length, List.replicate_succ, ← List.append_cons]

end Sys2Proof.Machine
end

section
/-! PROOFS. Where a step goes on and where it is refused (60_exceptions.md R174; 93_implementation_defined.md U8). -/

namespace Sys2Proof.Machine

/-- A well-formed command always goes on (R174). -/
theorem exec_goes_on_of_wf (s : State) {i : Instr} (h : i.wf = true) : ∃ t, exec i s = .next t := by
  cases i with
  | init => exact ⟨_, rfl⟩
  | absorb m => exact ⟨_, exec_absorb_of_length s (beq_iff_eq.mp h)⟩
  | final L N tail =>
    obtain ⟨t, -, hexec, -, -⟩ := exec_final_answers s N (beq_iff_eq.mp h)
    exact ⟨t, hexec⟩

/-- The transaction presented first is a command whose payload is not of the length its word announces (U8). -/
def State.FirstMisframed (s : State) : Prop :=
  ∃ cmd din rest, s.cmds = .command cmd din :: rest ∧ din.length ≠ payloadBytes cmd

variable {s : State}

theorem State.FirstMisframed.step (h : s.FirstMisframed) : step s = .refused .payloadLength := by
  obtain ⟨_, _, _, hc, hlen⟩ := h
  exact step_of_payloadLength hc (decode_eq_payloadLength.mpr hlen)

/-- Every other step goes on: what decodes to a command is well-formed, whatever the host put on the port. -/
theorem step_goes_on_of_not_firstMisframed (h : ¬s.FirstMisframed) : ∃ t, step s = .next t := by
  match hc : s.cmds with
  | [] => exact ⟨_, step_of_nil hc⟩
  | .hardwareReset _ :: _ => exact ⟨_, step_of_hardwareReset hc⟩
  | .command cmd din :: rest =>
    cases hd : decode cmd din with
    | instr i =>
      rw [step_of_instr hc hd]
      exact exec_goes_on_of_wf _ (encode_of_decode hd).2
    | reserved => exact ⟨_, step_of_reserved hc hd⟩
    | payloadLength => exact absurd ⟨cmd, din, rest, hc, decode_eq_payloadLength.mp hd⟩ h

theorem step_eq_refused_iff {r : Refusal} : step s = .refused r ↔ r = .payloadLength ∧ s.FirstMisframed := by
  by_cases h : s.FirstMisframed
  · rw [h.step, Host.Outcome.refused.injEq, eq_comm, and_iff_left h]
  · obtain ⟨t, ht⟩ := step_goes_on_of_not_firstMisframed h
    rw [ht]
    exact iff_of_false nofun fun hr => h hr.2

end Sys2Proof.Machine
end

section
/-! PROOFS. The statements of 60_exceptions.md. -/

namespace Sys2Proof.Machine

/-- Settles O13 (R174, R65, U8): there is no fault to give, and a step is refused where its payload is misframed. -/
theorem stepRefusesOnlyMisframedPayload : Obligations.StepRefusesOnlyMisframedPayload :=
  fun _ => ⟨nofun, fun _ => step_eq_refused_iff⟩

/-- Settles O34 (R171 to R173): the size check of `FINAL` decides, and raising responds to the state as it stands;
`INIT` and `ABSORB` answer OK wherever they go on. -/
theorem invalidOutputSizeIsPrecise : Obligations.InvalidOutputSizeIsPrecise := by
  refine ⟨fun s L N tail hlen => ?_, fun s t h => ?_, fun s t m h => ?_, rfl⟩
  · by_cases hN : N = 0 ∨ 64 < N.toNat
    · exact ⟨_, errorResponse .invalidOutputSize, exec_final_of_bad s hlen hN, rfl, iff_of_true rfl hN,
        fun _ => ⟨rfl, rfl⟩⟩
    · obtain ⟨t, r, hexec, hrsps, hstatus⟩ := exec_final_answers s N hlen
      rw [if_neg (mt badOutputSize_eq_true.mp hN)] at hstatus
      exact ⟨t, r, hexec, hrsps, iff_of_false (by simp [hstatus]) hN, fun hbad => absurd hbad hN⟩
  · obtain rfl := execInit_inv h
    exact ⟨okResponse [], rfl, by decide⟩
  · obtain ⟨-, rfl⟩ := execAbsorb_inv h
    exact ⟨okResponse [], by simp, by decide⟩

end Sys2Proof.Machine
end

section
/-! PROOFS. The fresh state, and runs where every payload is framed (70_reset_and_hazards.md R190, R191, R204). -/

namespace Sys2Proof.Machine

variable {s t : State}

/-! ## Ways to the fresh state -/

theorem State.reset_fresh : State.reset.Fresh := ⟨rfl, rfl, rfl⟩

theorem State.clear_fresh (s : State) : s.clear.Fresh := ⟨rfl, rfl, rfl⟩

/-- The working registers are no part of a fresh state (R27, R35). -/
theorem State.Fresh.releaseWork (h : s.Fresh) : s.releaseWork.Fresh := ⟨h.H, h.LEN, h.BUF⟩

theorem State.Fresh.respond (h : s.Fresh) (r : Response) : (s.respond r).Fresh := ⟨h.H, h.LEN, h.BUF⟩

theorem State.hardwareReset_fresh (s : State) : s.hardwareReset.Fresh := s.clear_fresh.releaseWork

theorem exec_init_fresh (h : exec .init s = .next t) : t.Fresh := by
  obtain rfl := execInit_inv h
  exact s.clear_fresh.respond _

/-- A legal size leaves the branch of `FINAL` that clears (R141, R149). -/
theorem exec_final_fresh {L : BitVec 6} {N : BitVec 8} {tail : List Byte} (hN : 1 ≤ N.toNat ∧ N.toNat ≤ 64)
    (h : exec (.final L N tail) s = .next t) : t.Fresh := by
  obtain ⟨-, ⟨hbad, -⟩ | ⟨-, rfl⟩⟩ := execFinal_inv h
  · exact absurd (hbad.symm.trans (badOutputSize_eq_false.mpr hN)) nofun
  · exact (finalDigest L tail s).clear_fresh.releaseWork.respond _

/-! ## Framed states -/

/-- A step takes the first event off the port, if there is one, and presents none of its own (R50). -/
theorem step_cmds (h : step s = .next t) : t.cmds = s.cmds.tail := by
  rcases step_inv h with ⟨hc, rfl⟩ | ⟨_, _, hc, rfl⟩ | ⟨_, _, _, hc, -, rfl⟩ | ⟨_, _, _, _, hc, -, he⟩
  · rw [hc, List.tail_nil]
  · rw [hc, State.hardwareReset_cmds, List.tail_cons]
  · rw [hc, State.illegal_cmds, List.tail_cons]
  · obtain ⟨hcmds, -⟩ := exec_answered he
    rw [hcmds, hc, List.tail_cons]

theorem State.framed_iff : s.framed = true ↔ ∀ e ∈ s.cmds, e.framed = true := List.all_eq_true

theorem State.not_firstMisframed_of_framed (hf : s.framed = true) : ¬s.FirstMisframed := by
  rintro ⟨cmd, din, rest, hc, hlen⟩
  have hmem : PortEvent.command cmd din ∈ s.cmds := hc ▸ List.mem_cons_self
  exact hlen (beq_iff_eq.mp (State.framed_iff.mp hf _ hmem))

/-- What a step leaves on the port was there before it. -/
theorem step_keeps_framed (hf : s.framed = true) (h : step s = .next t) : t.framed = true := by
  rw [State.framed_iff, step_cmds h]
  exact fun e he => State.framed_iff.mp hf e (List.mem_of_mem_tail he)

/-- A framed state goes on, to a framed state; so a run of any length does (R204). -/
theorem safeRun_of_framed (n : Nat) (hf : s.framed = true) : SafeRun n s := by
  induction n generalizing s with
  | zero => exact ⟨s, rfl⟩
  | succ n ih =>
    obtain ⟨u, hstep⟩ := step_goes_on_of_not_firstMisframed (State.not_firstMisframed_of_framed hf)
    obtain ⟨t, hrun⟩ := ih (step_keeps_framed hf hstep)
    exact ⟨t, (run_succ_of_next hstep).trans hrun⟩

end Sys2Proof.Machine
end

section
/-! PROOFS. The statements of 70_reset_and_hazards.md. -/

namespace Sys2Proof.Machine

/-- Settles O40 (R191): a hardware reset, `INIT` and the legal branch of `FINAL` each clear, and nothing after the
clear touches `H`, `LEN` or `BUF`. -/
theorem threeWaysToTheFreshState : Obligations.ThreeWaysToTheFreshState :=
  ⟨fun _ _ _ hc => ⟨_, step_of_hardwareReset hc, State.hardwareReset_fresh _, rfl, rfl, rfl⟩,
    fun _ _ => exec_init_fresh, fun _ _ _ _ _ hmin hmax => exec_final_fresh ⟨hmin, hmax⟩⟩

/-- Settles O47 (R204, R174), by induction on the number of steps. -/
theorem framedRunsNeverStop : Obligations.FramedRunsNeverStop := fun n _ => safeRun_of_framed n

/-- Settles O39 (R190, D1). -/
theorem resetState : Obligations.ResetState := ⟨State.reset_fresh, rfl, rfl, rfl⟩

/-- Settles O41 (R190, R25): the length counted is zero, and there is no response to check. -/
theorem invariantHoldsAtReset : Obligations.InvariantHoldsAtReset :=
  ⟨dvd_zero 512, State.reset_fresh.BUF, rfl, List.forall_mem_nil _⟩

end Sys2Proof.Machine
end
